-- ==== Sys2Proof/Word.lean ====
section
/-! DEFINITION. The words of the block: 32-bit bank registers, masks and operation words, and 8-bit payload
bytes (00_scope.md R11, R12). Nothing here is more than a name for a width. -/

namespace Sys2Proof

/-- A 32-bit word: a bank register, a mask, an operation word, a counter (00_scope.md R12). -/
abbrev Word := BitVec 32

/-- A payload byte, or the byte of SPLICE. -/
abbrev Byte := BitVec 8

end Sys2Proof
end

