-- ==== Sys2Proof/Config.lean ====
section
/-! DEFINITION. What one implementation fixes (the OPEN parameters of 00_scope.md R8), the literals the spec takes
from its source, and the free values: constants with no body, of which no proof can know a value. -/

namespace Sys2Proof

/-- The two pin banks (10_state.md R15). -/
inductive Bank
  | ctrl
  | data
  deriving DecidableEq, Repr, Inhabited

/-- The two registers of a bank: direction and data (10_state.md R15). -/
inductive Reg
  | dir
  | dat
  deriving DecidableEq, Repr, Inhabited

/-- The six named signals of the control bank (10_state.md R19). -/
inductive Signal
  | program
  | init
  | csi
  | rdwr
  | clock
  | done
  deriving DecidableEq, Repr, Inhabited

/-- The board profile (10_state.md R29): the bank bases, the MSB-0 pin indices of the six named signals, and the
place and width of the data bus, each as the register holds it. -/
structure Profile where
  ctrlBase : Nat
  dataBase : Nat
  pinProgram : BitVec 5
  pinInit : BitVec 5
  pinCsi : BitVec 5
  pinRdwr : BitVec 5
  pinClock : BitVec 5
  pinDone : BitVec 5
  dataStartBit : BitVec 5
  dataWidthBits : BitVec 5
  deriving DecidableEq, Repr, Inhabited

/-- The OPEN parameters (00_scope.md R8; 92_eei_decisions.md D10, D13, D14). A board identifier is a string of
ASCII bytes (log 26). -/
structure Params where
  /-- `P_ADDR_WIDTH`: the width of a bus address in bits. -/
  addrWidth : Nat
  /-- `P_DIR_OFF`: the byte offset of the direction register in a bank window. -/
  dirOff : Nat
  /-- `P_DATA_OFF`: the byte offset of the data register in a bank window. -/
  dataOff : Nat
  /-- `P_BOARDS`: the recognised board identifiers and their profiles. -/
  boards : List (List Byte × Profile)
  /-- `P_DEFAULT_BOARD`: the fallback profile of an unrecognised identifier. -/
  defaultBoard : Profile
  deriving DecidableEq, Repr, Inhabited

/-- What the blob provider and the container parser, both outside the block (00_scope.md R5), answer in one attempt
of the orchestrator (60_exceptions.md R146). -/
inductive ImageResult
  /-- Fetch and parse succeeded: the payload. -/
  | payload (bytes : List Byte)
  /-- Fetch failed: `FirmwareUnavailable`. -/
  | unavailable
  /-- Parse failed: `CorruptHeader`. -/
  | corruptHeader
  /-- Parse failed: `TruncatedInput`. -/
  | truncated
  deriving DecidableEq, Repr, Inhabited

/-- Which agent moves at a step (00_scope.md R6; 42_sequencer.md R94; log 6). -/
inductive Move
  /-- The next operation of HOST `k`'s stream reaches the block. -/
  | host (k : Nat)
  /-- The sequencer takes one step. -/
  | seq
  /-- The block accepts one held operation, the `k`-th modulo their number (43_host_commands.md R117). -/
  | release (k : Nat)
  /-- HOST `k` takes one step of its orchestrator's `run` (60_exceptions.md R143 to R150). -/
  | run (k : Nat)
  /-- The test of the simulated backend sets the INIT and DONE bits of the in-memory register (20_memory.md R60). -/
  | inject (init done : Option Bool)
  deriving DecidableEq, Repr, Inhabited

namespace Config

/-- `P_STARTUP_CLOCKS`: the clock pulses of COMPLETING (00_scope.md R8, 42_sequencer.md R108). UNVERIFIED: an
unaudited literal of the source (log 23). -/
def startupClocks : BitVec 4 := 8#4

/-- `P_MAX_ATTEMPTS`: the attempts a HOST makes in total (00_scope.md R8, 60_exceptions.md R147; 90_conflicts.md C1).
UNVERIFIED: an unaudited literal of the source (log 23). -/
def maxAttempts : Nat := 3

/-- FREE VALUE: the levels `IN_b` of the 32 pins of a bank at the n-th unscripted read (10_state.md R17: a fresh
`draw()` at every read, for every bit; log 5). -/
opaque freePins : Nat → Word

/-- FREE VALUE: which agent moves at the n-th unscripted step (42_sequencer.md R94, 43_host_commands.md R117; log 6). -/
opaque freeMove : Nat → Move

/-- FREE VALUE: how many steps with `BUSY = 0` an operation held at the n-th step may be passed over before it is accepted
(43_host_commands.md R117: never for ever; log 34). -/
opaque freePatience : Nat → Nat

/-- FREE VALUE: how many moves the other agents may make after the n-th step before the sequencer of a busy block moves
(43_host_commands.md R117: its steps always reach DONE or FAILED; log 34). -/
opaque freeSlack : Nat → Nat

/-- FREE VALUE: the byte read at an index (the second argument) beyond the end of the payload, in the n-th such chunk
step; no reachable state makes such a read (42_sequencer.md R103, R104; log 11). -/
opaque freeByte : Nat → Nat → Byte

/-- FREE VALUE: what fetching and parsing the image give in the n-th unscripted attempt (log 21). -/
opaque freeImage : Nat → ImageResult

end Config

end Sys2Proof
end

