-- ==== Sys2Proof/Syntax.lean ====
section
/-! DEFINITION. The instructions: one constructor per row of spec/opcode_table.json, the operation words of
30_encoding.md R72 and the sequencer steps of 30_encoding.md R76. -/

namespace Sys2Proof

/-- The operations HOST issues and the steps SEQ takes. Field values are as 30_encoding.md R70 decodes them: pin
indices and splice offsets in MSB-0 numbering, nothing scaled or extended. -/
inductive Instr
  /-- BSWAP (41_port_primitives.md R83). -/
  | bswap
  /-- SPLICE: offset `O`, byte `Y` (R84). -/
  | splice (o : BitVec 5) (y : Byte)
  /-- SETBIT: bank `B`, value `V`, pin `I` (R88). -/
  | setbit (b : Bank) (v : Bool) (i : BitVec 5)
  /-- GETBIT: bank `B`, pin `I` (R89). -/
  | getbit (b : Bank) (i : BitVec 5)
  /-- PULSE: bank `B`, pin `I` (R90). -/
  | pulse (b : Bank) (i : BitVec 5)
  /-- SETDIR: bank `B`, logical masks `OUTMASK`, `INMASK` (R91). -/
  | setdir (b : Bank) (outMask inMask : Word)
  /-- RDREG: bank `B`, register `R` (R86). -/
  | rdreg (b : Bank) (r : Reg)
  /-- WRREG: bank `B`, register `R` (R87). -/
  | wrreg (b : Bank) (r : Reg)
  /-- LDW: extension word `IMM` (R85). -/
  | ldw (imm : Word)
  /-- CMD.CONFIG: `PINW`, `GEOW`, the two bank bases, the two wait bounds (43_host_commands.md R118). -/
  | cmdConfig (pinw geow : Word) (ctrlBase dataBase : Nat) (iwb dwb : Word)
  /-- CMD.PROGRAM: the width code `V` and the out-of-band payload (R120, 30_encoding.md R74). -/
  | cmdProgram (v : Bool) (pay : List Byte)
  /-- CMD.RESET_ONLY (R122). -/
  | cmdResetOnly
  /-- CMD.STATUS (R123). -/
  | cmdStatus
  /-- STEP.IDLE, selector 0x00 (42_sequencer.md R96). -/
  | stepIdle
  /-- STEP.SETUP, selector 0x01 (R97). -/
  | stepSetup
  /-- STEP.RESET, selector 0x02 (R98). -/
  | stepReset
  /-- STEP.WAIT_INIT, selector 0x03 (R101). -/
  | stepWaitInit
  /-- STEP.SHIFT_FRAME, selector 0x04 (R102). -/
  | stepShiftFrame
  /-- STEP.SHIFT_CHUNK, selector 0x14 (R103). -/
  | stepShiftChunk
  /-- STEP.CHECK_INIT, selector 0x05 (R105). -/
  | stepCheckInit
  /-- STEP.POLL_DONE, selector 0x15 (R107). -/
  | stepPollDone
  /-- STEP.COMPLETING, selector 0x06 (R108). -/
  | stepCompleting
  /-- STEP.DONE, selector 0x07 (R109). -/
  | stepDone
  /-- STEP.FAILED, selector 0x08 (R110). -/
  | stepFailed
  deriving DecidableEq, Repr, Inhabited

end Sys2Proof
end

