-- ==== Sys2Proof/Machine/State.lean ====
section
/-! DEFINITION. The state of the machine as plain data: every piece of state of 10_state.md, the held words of
43_host_commands.md, the HOST agents of 60_exceptions.md section 6, and the environment's inputs; power-on and reset. -/

namespace Sys2Proof.Machine

/-- Why the machine stops (the model's own stop, SAFE: it stops where the spec gives no meaning). -/
inductive Fault
  /-- Raised by CMD.PROGRAM when the payload is longer than 2^32 - 1 bytes, which 30_encoding.md R74 excludes. Safe
  (log 12). -/
  | payloadTooLong
  deriving DecidableEq, Repr

/-- Why an instruction has no meaning. -/
inductive Refusal
  /-- Raised by exec's arm of an instruction that is not modelled. Safe. No arm raises it now. -/
  | notModelled (mnemonic : String)
  deriving DecidableEq, Repr

/-- The failure reasons of `REASON` (30_encoding.md R77); all four 2-bit codes are assigned. -/
inductive Reason
  | none
  | initTimeout
  | programmingRejected
  | doneTimeout
  deriving DecidableEq, Repr, Inhabited

/-- The refusal reasons of the interface (60_exceptions.md R131). -/
inductive RefuseReason
  | illegalEncoding
  | noProfile
  | badProfile
  | widthMismatch
  | oddPayload
  deriving DecidableEq, Repr, Inhabited

/-- An entry of the transaction trace (00_scope.md R13): one 32-bit bus read or write of a raw value. -/
inductive Entry
  | read (addr : Nat) (value : Word)
  | write (addr : Nat) (value : Word)
  deriving DecidableEq, Repr

/-- The two implementations of the port (20_memory.md R60). -/
inductive Backend
  | real
  | simulated
  deriving DecidableEq, Repr, Inhabited

/-- The four bank registers, raw (10_state.md R15 to R18): directions and output latches. -/
structure Banks where
  dirCtrl : Word
  outCtrl : Word
  dirData : Word
  outData : Word
  deriving DecidableEq, Repr, Inhabited

/-- The environment: what the agents outside the block will do (00_scope.md R6, R7; log 5, log 6, log 19, log 34). -/
structure Env where
  /-- Which implementation the port is (20_memory.md R60). -/
  backend : Backend
  /-- The pin levels TARGET drives at the next reads of a data register, oldest first; then free values. -/
  target : List Word
  /-- The agents that move at the next steps, oldest first; then free values. -/
  sched : List Move
  /-- How many free values have been taken: the next one is a new one. -/
  fresh : Nat
  /-- How many moves the other agents may still make before the sequencer of a busy block moves (43_host_commands.md R117;
  log 34). -/
  slack : Nat
  deriving DecidableEq, Repr, Inhabited

/-- The error kinds a HOST reports (60_exceptions.md R150). -/
inductive LoadError
  | corruptHeader
  | truncatedInput
  | firmwareUnavailable
  | initTimeout
  | programmingRejected
  | doneTimeout
  deriving DecidableEq, Repr, Inhabited

/-- Where a HOST's `run` stands (60_exceptions.md R143 to R150; log 20). -/
inductive RunPhase
  /-- Not begun: waiting for the whole-`run` session lock (R150), and for the HOST's earlier words (log 32). -/
  | waitLock
  /-- CMD.CONFIG issued (R143); waiting for its response. -/
  | awaitConfig
  /-- Between attempts (R146, R147). -/
  | nextAttempt
  /-- CMD.PROGRAM or CMD.RESET_ONLY issued; waiting for its response. -/
  | awaitStart
  /-- CMD.STATUS issued; waiting for its response (R146 step 4 and 5). -/
  | awaitStatus
  /-- Finished with success (R145, R147). -/
  | succeeded
  /-- Finished after the last attempt: the last failure is reported as fatal (R150). -/
  | failed (last : Option LoadError)
  deriving DecidableEq, Repr, Inhabited

/-- One `run(boardId, busWidth, imageSource)` of the orchestrator (60_exceptions.md section 6). Strings are ASCII
bytes (log 26). -/
structure HostRun where
  boardId : List Byte
  busWidth : Nat
  imageSource : List Byte
  /-- The wait bounds HOST configures (00_scope.md R8). -/
  iwb : Word
  dwb : Word
  /-- What fetch and parse give at the next attempts; then free values (log 21). -/
  images : List ImageResult
  phase : RunPhase
  /-- Attempts made so far (R147). -/
  attempts : Nat
  /-- The last error kind (R150). -/
  lastError : Option LoadError
  deriving DecidableEq, Repr, Inhabited

/-- A response a HOST has received: the word, and the operation it answers (30_encoding.md R78; log 32). -/
structure Response where
  op : Instr
  word : Word
  deriving DecidableEq, Repr

/-- A HOST agent: the operation words it has issued (30_encoding.md R69), the payloads it presents out of band (R74),
the responses it has received, oldest first (R78), and its `run`, if it makes one (log 33). -/
structure HostAgent where
  stream : List Word
  pays : List (List Byte)
  inbox : List Response
  run : Option HostRun
  deriving DecidableEq, Repr, Inhabited

/-- An operation held by the session lock, the HOST that issued it, and how many steps with `BUSY = 0` it may still be
passed over (43_host_commands.md R117: never for ever; log 34). -/
structure HeldOp where
  host : Nat
  instr : Instr
  patience : Nat
  deriving DecidableEq, Repr

/-- The state of the machine. -/
structure State where
  /-- `DIR_CTRL`, `OUT_CTRL`, `DIR_DATA`, `OUT_DATA` (10_state.md R15). -/
  banks : Banks
  /-- The profile registers (R29). -/
  profile : Profile
  /-- `CFGV`: a well-formed profile is loaded (R29). -/
  cfgv : Bool
  /-- `W`: the bus width code (R30). -/
  w : Bool
  /-- `IWB`: the INIT wait bound (R30). -/
  iwb : Word
  /-- `DWB`: the DONE wait bound (R30). -/
  dwb : Word
  /-- `PAY`: the payload (R30). -/
  pay : List Byte
  /-- `N`: the payload's length (R30). -/
  n : Word
  /-- `ST`: the sequencer state, codes of 30_encoding.md R75 (R31). -/
  st : BitVec 4
  /-- `PH`: the phase inside a state (R32). -/
  ph : Bool
  /-- `RO`: the reset-only flag (R33). -/
  ro : Bool
  /-- `REASON`: the failure reason of the last attempt (R34). -/
  reason : Reason
  /-- `POLL`: polls made in the current wait state (R35). -/
  poll : Word
  /-- `IDX`: index of the next payload byte (R36). -/
  idx : Word
  /-- `SCNT`: startup pulses emitted (R37). -/
  scnt : BitVec 4
  /-- `WW`: the working word (R39). -/
  ww : Word
  /-- `RV`: the last GETBIT result (R39). -/
  rv : Bool
  /-- The transaction trace, oldest entry first (R40; 00_scope.md R13). -/
  trace : List Entry
  /-- `REFUSED` (R40). -/
  refused : Bool
  /-- The reason of the last refusal (60_exceptions.md R131; the model's own field, log 8). -/
  refusedFor : Option RefuseReason
  /-- `FAULT` (R40). -/
  fault : Bool
  /-- The response of the last operation performed; none if it was refused (30_encoding.md R78). -/
  resp : Option Word
  /-- The OPEN parameters, constant (00_scope.md R8). -/
  params : Params
  /-- TARGET, the schedule and the backend. -/
  env : Env
  /-- The HOST agents (00_scope.md R6). -/
  hosts : List HostAgent
  /-- The operations held by the lock, oldest first (43_host_commands.md R117). -/
  held : List HeldOp
  /-- The HOST that holds the whole-`run` session lock (60_exceptions.md R150). It keeps out other runs only (log 37). -/
  runLock : Option Nat
  deriving DecidableEq, Repr

/-! ## Power-on and reset (10_state.md R41, 70_reset_and_hazards.md R151, R152) -/

/-- What power-on leaves unspecified (10_state.md R41): a `draw()` each; and what is fixed from outside the block: the
parameters, the environment and the HOST agents. -/
structure PowerOn where
  banks : Banks
  profile : Profile
  iwb : Word
  dwb : Word
  ww : Word
  rv : Bool
  params : Params
  env : Env
  hosts : List HostAgent
  deriving DecidableEq, Repr

/-- The state after power-on reset, for each draw `d` of what the spec leaves unspecified. -/
def State.powerOn (d : PowerOn) : State where
  banks := d.banks
  profile := d.profile
  cfgv := false
  w := false
  iwb := d.iwb
  dwb := d.dwb
  pay := []
  n := 0#32
  st := 0x0#4
  ph := false
  ro := false
  reason := .none
  poll := 0#32
  idx := 0#32
  scnt := 0#4
  ww := d.ww
  rv := d.rv
  trace := []
  refused := false
  refusedFor := none
  fault := false
  resp := none
  params := d.params
  env := d.env
  hosts := d.hosts
  held := []
  runLock := none

/-- The profile EXA, the spec's own test data (95_test_vectors.md section 1). -/
def profileExa : Profile where
  ctrlBase := 0x10000000
  dataBase := 0x10000100
  pinProgram := 0#5
  pinInit := 9#5
  pinCsi := 18#5
  pinRdwr := 27#5
  pinClock := 31#5
  pinDone := 12#5
  dataStartBit := 8#5
  dataWidthBits := 16#5

/-- The profile EXA8, EXA with an 8-bit bus at bit 4 (95_test_vectors.md section 1). -/
def profileExa8 : Profile := { profileExa with dataStartBit := 4#5, dataWidthBits := 8#5 }

/-- DESIGN CHOICE (log 4): the parameters of the spec's example addresses; the boards are named "A" and "B". -/
def exampleParams : Params where
  addrWidth := 32
  dirOff := 0
  dataOff := 4
  boards := [([0x41#8], profileExa), ([0x42#8], profileExa8)]
  defaultBoard := profileExa

/-- The profile registers at reset, unspecified by the spec: DESIGN CHOICE 0 (log 3). -/
def profileZero : Profile where
  ctrlBase := 0
  dataBase := 0
  pinProgram := 0#5
  pinInit := 0#5
  pinCsi := 0#5
  pinRdwr := 0#5
  pinClock := 0#5
  pinDone := 0#5
  dataStartBit := 0#5
  dataWidthBits := 0#5

/-- A HOST that has issued nothing. -/
def HostAgent.quiet : HostAgent := ⟨[], [], [], none⟩

/-- DESIGN CHOICE (log 1 to 6, 19, 24, 34): the value `State.reset` takes for each thing power-on leaves open. -/
def PowerOn.chosen : PowerOn where
  banks := ⟨0#32, 0#32, 0#32, 0#32⟩
  profile := profileZero
  iwb := 0#32
  dwb := 0#32
  ww := 0#32
  rv := false
  params := exampleParams
  env := ⟨.real, [], [], 0, 0⟩
  hosts := [HostAgent.quiet]

/-- The machine right after reset. -/
def State.reset : State := State.powerOn PowerOn.chosen

end Sys2Proof.Machine
end

