-- ==== Sys2Proof/Machine/Flags.lean ====
section
/-! DEFINITION. The status of the block: the state codes (30_encoding.md R75), BUSY (10_state.md R38), the step selector
(30_encoding.md R76), the reason codes (R77) and the status word (R78). The block has no arithmetic flags. -/

namespace Sys2Proof.Machine

/-! State codes of `ST` (30_encoding.md R75). -/

/-- IDLE. -/
def stIdle : BitVec 4 := 0x0#4
/-- SETUP. -/
def stSetup : BitVec 4 := 0x1#4
/-- RESET. -/
def stReset : BitVec 4 := 0x2#4
/-- WAIT_INIT. -/
def stWaitInit : BitVec 4 := 0x3#4
/-- SHIFTING. -/
def stShifting : BitVec 4 := 0x4#4
/-- WAIT_DONE. -/
def stWaitDone : BitVec 4 := 0x5#4
/-- COMPLETING. -/
def stCompleting : BitVec 4 := 0x6#4
/-- DONE. -/
def stDone : BitVec 4 := 0x7#4
/-- FAILED. -/
def stFailed : BitVec 4 := 0x8#4

/-- `BUSY` of a state code: SETUP, RESET, WAIT_INIT, SHIFTING, WAIT_DONE or COMPLETING (10_state.md R38). -/
def busyCode (st : BitVec 4) : Bool :=
  st == stSetup || st == stReset || st == stWaitInit || st == stShifting || st == stWaitDone || st == stCompleting

/-- `BUSY`, derived from `ST` (10_state.md R38). -/
def State.busy (s : State) : Bool := busyCode s.st

/-- The step selector `PH ++ ST` (30_encoding.md R76). -/
def State.selector (s : State) : BitVec 5 := BitVec.ofBool s.ph ++ s.st

/-- The code of a failure reason (30_encoding.md R77). -/
def Reason.code : Reason → BitVec 2
  | .none => 0#2
  | .initTimeout => 1#2
  | .programmingRejected => 2#2
  | .doneTimeout => 3#2

/-- The status word: `CFGV ++ BUSY ++ REASON ++ RO ++ PH ++ ST`, zero-extended (30_encoding.md R78, 43_host_commands.md
R123). -/
def State.statusWord (s : State) : Word :=
  (BitVec.ofBool s.cfgv ++ BitVec.ofBool s.busy ++ s.reason.code ++ BitVec.ofBool s.ro ++ BitVec.ofBool s.ph
    ++ s.st).setWidth 32

/-- The number of payload bytes per clock pulse, `busWidth = W + 1` (42_sequencer.md). -/
def State.busWidth (s : State) : Word := if s.w then 2#32 else 1#32

end Sys2Proof.Machine
end

