-- ==== Sys2Proof/WellFormed.lean ====
section
/-! DEFINITION. Which terms of Instr an encoding can express, for a bus address of `aw` bits. -/

namespace Sys2Proof

/-- The number of extension words that hold one bank base: `ceil(P_ADDR_WIDTH / 32)` (30_encoding.md R71). -/
def baseWords (aw : Nat) : Nat := (aw + 31) / 32

/-- `aw` is `P_ADDR_WIDTH`. The splice offset names a field inside the word (30_encoding.md R64), a bank base fits its
extension words (R71), and the payload's length fits the 32-bit `N` (R74). Every other field is bounded by its type. -/
def Instr.wf (aw : Nat) : Instr → Bool
  | .splice o _ => decide (o.toNat ≤ 24)
  | .cmdConfig _ _ ctrlBase dataBase _ _ =>
    decide (ctrlBase < 2 ^ (32 * baseWords aw)) && decide (dataBase < 2 ^ (32 * baseWords aw))
  | .cmdProgram _ pay => decide (pay.length < 2 ^ 32)
  | .bswap | .setbit _ _ _ | .getbit _ _ | .pulse _ _ | .setdir _ _ _ | .rdreg _ _ | .wrreg _ _ | .ldw _
  | .cmdResetOnly | .cmdStatus | .stepIdle | .stepSetup | .stepReset | .stepWaitInit | .stepShiftFrame
  | .stepShiftChunk | .stepCheckInit | .stepPollDone | .stepCompleting | .stepDone | .stepFailed => true

end Sys2Proof
end

