-- ==== Sys2Proof/Decode.lean ====
section
/-! DEFINITION. The decoder and, after it, the encoder. Operation words come from a stream of 32-bit words
(30_encoding.md R69 to R74), sequencer steps from the 5-bit selector `PH ++ ST` (R76). Decoding is total: a word that
is no operation is rejected by name. -/

namespace Sys2Proof

/-- The operation codes assigned by 30_encoding.md R72. -/
inductive Opcode
  | bswap | splice | setbit | getbit | pulse | setdir | rdreg | wrreg | ldw
  | config | program | resetOnly | status
  deriving DecidableEq, Repr, Inhabited

/-- Why a word is illegal (30_encoding.md R73). -/
inductive DecodeError
  /-- `OP` is 0x00, 0x0A..0x0F or 0x14..0xFF. -/
  | unassignedOp
  /-- A bit outside the fields its `OP` uses is set. -/
  | reservedBits
  /-- A SPLICE word with `O > 24`. -/
  | spliceOffset
  deriving DecidableEq, Repr, Inhabited

/-- A row of the opcode table: the value of the bits under `mask`. -/
structure OdwRow where
  code : Opcode
  pattern : Word
  mask : Word
  deriving DecidableEq, Repr

/-- The 13 operation rows (30_encoding.md R72, opcode_table.json): match and mask. -/
def odwRows : List OdwRow :=
  [⟨.bswap, 0x01000000#32, 0xFFFFFFFF#32⟩, ⟨.splice, 0x02000000#32, 0xFFFF00E0#32⟩,
   ⟨.setbit, 0x03000000#32, 0xFF20FFFF#32⟩, ⟨.getbit, 0x04000000#32, 0xFF60FFFF#32⟩,
   ⟨.pulse, 0x05000000#32, 0xFF60FFFF#32⟩, ⟨.setdir, 0x06000000#32, 0xFF7FFFFF#32⟩,
   ⟨.rdreg, 0x07000000#32, 0xFF5FFFFF#32⟩, ⟨.wrreg, 0x08000000#32, 0xFF5FFFFF#32⟩,
   ⟨.ldw, 0x09000000#32, 0xFFFFFFFF#32⟩, ⟨.config, 0x10000000#32, 0xFFFFFFFF#32⟩,
   ⟨.program, 0x11000000#32, 0xFFBFFFFF#32⟩, ⟨.resetOnly, 0x12000000#32, 0xFFFFFFFF#32⟩,
   ⟨.status, 0x13000000#32, 0xFFFFFFFF#32⟩]

/-! The fields of an operation word (30_encoding.md R69), conventional numbering. -/

/-- `OP`, bits [31:24]. -/
def odwOp (w : Word) : BitVec 8 := w.extractLsb' 24 8
/-- `B`, bit 23: 0 = CTRL, 1 = DATA. -/
def odwBank (w : Word) : Bank := if w.getLsbD 23 then .data else .ctrl
/-- `V`, bit 22. -/
def odwValue (w : Word) : Bool := w.getLsbD 22
/-- `R`, bit 21: 0 = DIR, 1 = DAT. -/
def odwReg (w : Word) : Reg := if w.getLsbD 21 then .dat else .dir
/-- `I`, bits [20:16]. -/
def odwPin (w : Word) : BitVec 5 := w.extractLsb' 16 5
/-- `Y`, bits [15:8]. -/
def odwByte (w : Word) : Byte := w.extractLsb' 8 8
/-- `O`, bits [4:0]. -/
def odwOffset (w : Word) : BitVec 5 := w.extractLsb' 0 5

/-- The legality check of 30_encoding.md R73: the operation a word names, or why it is illegal. -/
def classify (w : Word) : Except DecodeError Opcode :=
  match odwRows.find? (fun r => w &&& r.mask == r.pattern) with
  | some r =>
    if r.code = .splice ∧ 24 < (odwOffset w).toNat then .error .spliceOffset else .ok r.code
  | none =>
    if odwRows.any (fun r => odwOp r.pattern == odwOp w) then .error .reservedBits else .error .unassignedOp

/-- The number of extension words of an operation (30_encoding.md R71, R72). -/
def extWords (aw : Nat) : Opcode → Nat
  | .ldw => 1
  | .setdir => 2
  | .config => 4 + 2 * baseWords aw
  | .bswap | .splice | .setbit | .getbit | .pulse | .rdreg | .wrreg | .program | .resetOnly | .status => 0

/-- The number held by extension words, least significant word first (30_encoding.md R71). -/
def natOfWords : List Word → Nat
  | [] => 0
  | w :: ws => w.toNat + 2 ^ 32 * natOfWords ws

/-- What the front of an operation stream holds. -/
inductive Fetched
  /-- The operation's words, or its out-of-band payload, have not all been issued yet. -/
  | incomplete
  /-- The first word is illegal. -/
  | illegal (e : DecodeError)
  /-- An operation, and what is left of the stream and of the payloads. -/
  | op (i : Instr) (words : List Word) (pays : List (List Byte))
  deriving DecidableEq, Repr

/-- CMD.CONFIG's extension words, in the order of 30_encoding.md R71. -/
def decodeConfig (aw : Nat) (ws : List Word) (pays : List (List Byte)) : Fetched :=
  match ws with
  | pinw :: geow :: rest =>
    match rest.drop (2 * baseWords aw) with
    | iwb :: dwb :: rest' =>
      .op (.cmdConfig pinw geow (natOfWords (rest.take (baseWords aw)))
        (natOfWords ((rest.drop (baseWords aw)).take (baseWords aw))) iwb dwb) rest' pays
    | _ => .incomplete
  | _ => .incomplete

/-- The operation a legal word `w` of code `c` begins, with its extension words and payload (30_encoding.md R70, R71, R74). -/
def decodeFields (aw : Nat) (c : Opcode) (w : Word) (ws : List Word) (pays : List (List Byte)) : Fetched :=
  match c with
  | .bswap => .op .bswap ws pays
  | .splice => .op (.splice (odwOffset w) (odwByte w)) ws pays
  | .setbit => .op (.setbit (odwBank w) (odwValue w) (odwPin w)) ws pays
  | .getbit => .op (.getbit (odwBank w) (odwPin w)) ws pays
  | .pulse => .op (.pulse (odwBank w) (odwPin w)) ws pays
  | .rdreg => .op (.rdreg (odwBank w) (odwReg w)) ws pays
  | .wrreg => .op (.wrreg (odwBank w) (odwReg w)) ws pays
  | .resetOnly => .op .cmdResetOnly ws pays
  | .status => .op .cmdStatus ws pays
  | .ldw =>
    match ws with
    | imm :: rest => .op (.ldw imm) rest pays
    | [] => .incomplete
  | .setdir =>
    match ws with
    | outMask :: inMask :: rest => .op (.setdir (odwBank w) outMask inMask) rest pays
    | _ => .incomplete
  | .config => decodeConfig aw ws pays
  | .program =>
    match pays with
    | pay :: more => .op (.cmdProgram (odwValue w) pay) ws more
    | [] => .incomplete

/-- The decoder of a HOST's operation stream (`aw` is `P_ADDR_WIDTH`). -/
def decodeStream (aw : Nat) (ws : List Word) (pays : List (List Byte)) : Fetched :=
  match ws with
  | [] => .incomplete
  | w :: rest =>
    match classify w with
    | .error e => .illegal e
    | .ok c => decodeFields aw c w rest pays

/-- The decoder of the sequencer's step selector `PH ++ ST` (30_encoding.md R76); `none` for a reserved selector. -/
def decodeSelector (sel : BitVec 5) : Option Instr :=
  if sel = 0x00#5 then some .stepIdle
  else if sel = 0x01#5 then some .stepSetup
  else if sel = 0x02#5 then some .stepReset
  else if sel = 0x03#5 then some .stepWaitInit
  else if sel = 0x04#5 then some .stepShiftFrame
  else if sel = 0x14#5 then some .stepShiftChunk
  else if sel = 0x05#5 then some .stepCheckInit
  else if sel = 0x15#5 then some .stepPollDone
  else if sel = 0x06#5 then some .stepCompleting
  else if sel = 0x07#5 then some .stepDone
  else if sel = 0x08#5 then some .stepFailed
  else none

/-! ## The encoder -/

/-- An instruction's encoding: words of a stream with the payload presented beside them, or a step selector. -/
inductive Encoding
  | stream (words : List Word) (pays : List (List Byte))
  | selector (sel : BitVec 5)
  deriving DecidableEq, Repr

/-- An operation word with every field given (30_encoding.md R69). -/
def odw (op : BitVec 8) (b v r : BitVec 1) (i : BitVec 5) (y : Byte) (o : BitVec 5) : Word :=
  op ++ b ++ v ++ r ++ i ++ y ++ 0#3 ++ o

/-- The code of a bank in field `B`. -/
def bankCode : Bank → BitVec 1
  | .ctrl => 0#1
  | .data => 1#1

/-- The code of a register in field `R`. -/
def regCode : Reg → BitVec 1
  | .dir => 0#1
  | .dat => 1#1

/-- `k` extension words holding a number, least significant word first (30_encoding.md R71). -/
def wordsOfNat : Nat → Nat → List Word
  | 0, _ => []
  | k + 1, x => BitVec.ofNat 32 x :: wordsOfNat k (x / 2 ^ 32)

/-- An operation word of code `op` with fields `B`, `V`, `R`, `I` and no byte or offset. -/
def odwPort (op : BitVec 8) (b v r : BitVec 1) (i : BitVec 5) : Word := odw op b v r i 0#8 0#5

/-- An operation word whose every field but `OP` is 0. -/
def odwBare (op : BitVec 8) : Word := odwPort op 0#1 0#1 0#1 0#5

/-- The encoder (30_encoding.md R69 to R76), for a bus address of `aw` bits. -/
def encode (aw : Nat) : Instr → Encoding
  | .bswap => .stream [odwBare 0x01#8] []
  | .splice o y => .stream [odw 0x02#8 0#1 0#1 0#1 0#5 y o] []
  | .setbit b v i => .stream [odwPort 0x03#8 (bankCode b) (BitVec.ofBool v) 0#1 i] []
  | .getbit b i => .stream [odwPort 0x04#8 (bankCode b) 0#1 0#1 i] []
  | .pulse b i => .stream [odwPort 0x05#8 (bankCode b) 0#1 0#1 i] []
  | .setdir b outMask inMask => .stream [odwPort 0x06#8 (bankCode b) 0#1 0#1 0#5, outMask, inMask] []
  | .rdreg b r => .stream [odwPort 0x07#8 (bankCode b) 0#1 (regCode r) 0#5] []
  | .wrreg b r => .stream [odwPort 0x08#8 (bankCode b) 0#1 (regCode r) 0#5] []
  | .ldw imm => .stream [odwBare 0x09#8, imm] []
  | .cmdConfig pinw geow ctrlBase dataBase iwb dwb =>
    .stream ([odwBare 0x10#8, pinw, geow] ++ wordsOfNat (baseWords aw) ctrlBase
      ++ wordsOfNat (baseWords aw) dataBase ++ [iwb, dwb]) []
  | .cmdProgram v pay => .stream [odwPort 0x11#8 0#1 (BitVec.ofBool v) 0#1 0#5] [pay]
  | .cmdResetOnly => .stream [odwBare 0x12#8] []
  | .cmdStatus => .stream [odwBare 0x13#8] []
  | .stepIdle => .selector 0x00#5
  | .stepSetup => .selector 0x01#5
  | .stepReset => .selector 0x02#5
  | .stepWaitInit => .selector 0x03#5
  | .stepShiftFrame => .selector 0x04#5
  | .stepShiftChunk => .selector 0x14#5
  | .stepCheckInit => .selector 0x05#5
  | .stepPollDone => .selector 0x15#5
  | .stepCompleting => .selector 0x06#5
  | .stepDone => .selector 0x07#5
  | .stepFailed => .selector 0x08#5

/-- The words of an encoding (none for a selector). -/
def Encoding.words : Encoding → List Word
  | .stream ws _ => ws
  | .selector _ => []

/-- The payloads presented with an encoding. -/
def Encoding.pays : Encoding → List (List Byte)
  | .stream _ ps => ps
  | .selector _ => []

/-! ## Words as the opcode table numbers them -/

/-- The 32-bit words of a number, the first word its least significant bits, `k` of them. -/
def tableWords (k w : Nat) : List Word := wordsOfNat k w

/-- The words of the operation that begins `w`: the table's word and its extension words, and no more. -/
def tableStream (aw w : Nat) : List Word :=
  match classify (BitVec.ofNat 32 w) with
  | .ok c => tableWords (1 + extWords aw c) w
  | .error _ => tableWords 1 w

/-- The payloads that stand beside a table word: an empty one for CMD.PROGRAM (30_encoding.md R74). -/
def tablePays (w : Nat) : List (List Byte) :=
  match classify (BitVec.ofNat 32 w) with
  | .ok .program => [[]]
  | _ => []

/-- The instruction this decoder reads from the bits of one row of spec/opcode_table.json: the step rows have 5 bits
(8 in whole bytes), the operation rows 32 and their extension words above them; `P_ADDR_WIDTH` is 32, as in the
spec's example addresses (95_test_vectors.md section 1). -/
def decodeTableWord (nbits w : Nat) : Option Instr :=
  if nbits ≤ 8 then
    if w < 32 then decodeSelector (BitVec.ofNat 5 w) else none
  else
    match decodeStream 32 (tableStream 32 w) (tablePays w) with
    | .op i _ _ => some i
    | _ => none

end Sys2Proof
end

