-- ==== Sys2Proof/Machine/Operands.lean ====
section
/-! DEFINITION. Every operand form: byte order and bit numbering (20_memory.md R50 to R52), pin masks, the splice field
and the data lanes (30_encoding.md R61 to R66), the addresses of the bank registers (20_memory.md R47), and the
profile that CMD.CONFIG's words name, with its validation (00_scope.md R9, 43_host_commands.md R119). -/

namespace Sys2Proof

/-! ## Byte order and bit numbering -/

/-- The byte swap `x[7:0] ++ x[15:8] ++ x[23:16] ++ x[31:24]` (00_scope.md R12, 20_memory.md R50). -/
def bswap32 (x : Word) : Word :=
  x.extractLsb' 0 8 ++ x.extractLsb' 8 8 ++ x.extractLsb' 16 8 ++ x.extractLsb' 24 8

/-- The logical mask of pin index `i`: `1 << (31 - i)` (20_memory.md R51). -/
def lmask (i : BitVec 5) : Word := 1#32 <<< (31 - i.toNat)

/-- The raw bit of pin index `i` (20_memory.md R52). -/
def rbit (i : BitVec 5) : Nat := 8 * (i.toNat / 8) + 7 - i.toNat % 8

/-- The raw mask of pin index `i` (20_memory.md R52). -/
def rmask (i : BitVec 5) : Word := 1#32 <<< rbit i

/-- The logical word with pin `i` set or cleared (41_port_primitives.md R88). -/
def withPin (l : Word) (i : BitVec 5) (v : Bool) : Word :=
  if v then l ||| lmask i else l &&& ~~~(lmask i)

/-- Pin `i` of the logical word: conventional bit `31 - i` (41_port_primitives.md R89). -/
def pinOf (l : Word) (i : BitVec 5) : Bool := l.getLsbD (31 - i.toNat)

/-! ## The splice field and the lanes -/

/-- The mask of the 8-bit field at MSB-0 offset `o` (30_encoding.md R63). -/
def smask (o : Nat) : Word := 0xFF#32 <<< (24 - o)

/-- `spliceByte`: the field at offset `o` overwritten with `y`, for `o` in 0..24 (30_encoding.md R63). -/
def splice (w : Word) (o : Nat) (y : Byte) : Word :=
  (w &&& ~~~(smask o)) ||| (y.setWidth 32 <<< (24 - o))

/-- `UP`, the offset of the upper lane (30_encoding.md R65). -/
def Profile.up (p : Profile) : Nat := p.dataStartBit.toNat

/-- `LO`, the offset of the lower lane (30_encoding.md R65). -/
def Profile.lo (p : Profile) : Nat := p.dataStartBit.toNat + p.dataWidthBits.toNat - 8

/-! ## Pin masks of SETUP -/

/-- The pin index of a named signal (10_state.md R19). -/
def Profile.pin (p : Profile) : Signal → BitVec 5
  | .program => p.pinProgram
  | .init => p.pinInit
  | .csi => p.pinCsi
  | .rdwr => p.pinRdwr
  | .clock => p.pinClock
  | .done => p.pinDone

/-- `ctrlOut` (30_encoding.md R62). -/
def Profile.ctrlOut (p : Profile) : Word :=
  lmask p.pinProgram ||| lmask p.pinCsi ||| lmask p.pinRdwr ||| lmask p.pinClock

/-- `ctrlIn` (30_encoding.md R62). -/
def Profile.ctrlIn (p : Profile) : Word := lmask p.pinInit ||| lmask p.pinDone

/-- `dataOut`: `((1 << dataWidthBits) - 1) << (32 - dataStartBit - dataWidthBits)` (30_encoding.md R62). -/
def Profile.dataOut (p : Profile) : Word :=
  ((1#32 <<< p.dataWidthBits.toNat) - 1#32) <<< (32 - p.dataStartBit.toNat - p.dataWidthBits.toNat)

/-! ## Addresses -/

/-- The base of a bank's window (20_memory.md R45). -/
def Profile.base (p : Profile) : Bank → Nat
  | .ctrl => p.ctrlBase
  | .data => p.dataBase

/-- The offset of a register in a window (20_memory.md R44). -/
def Params.offset (q : Params) : Reg → Nat
  | .dir => q.dirOff
  | .dat => q.dataOff

/-- `addr(b, r)`, modulo 2^`P_ADDR_WIDTH` (20_memory.md R47). -/
def busAddr (q : Params) (p : Profile) (b : Bank) (r : Reg) : Nat :=
  (p.base b + q.offset r) % 2 ^ q.addrWidth

/-! ## The profile of CMD.CONFIG -/

/-- The profile the words name (30_encoding.md R71): pin indices in `PINW`, geometry in `GEOW`. -/
def profileOf (pinw geow : Word) (ctrlBase dataBase : Nat) : Profile where
  ctrlBase := ctrlBase
  dataBase := dataBase
  pinProgram := pinw.extractLsb' 25 5
  pinInit := pinw.extractLsb' 20 5
  pinCsi := pinw.extractLsb' 15 5
  pinRdwr := pinw.extractLsb' 10 5
  pinClock := pinw.extractLsb' 5 5
  pinDone := pinw.extractLsb' 0 5
  dataStartBit := geow.extractLsb' 0 5
  dataWidthBits := geow.extractLsb' 8 5

/-- `PINW` of a profile (30_encoding.md R71). -/
def Profile.pinw (p : Profile) : Word :=
  0#2 ++ p.pinProgram ++ p.pinInit ++ p.pinCsi ++ p.pinRdwr ++ p.pinClock ++ p.pinDone

/-- `GEOW` of a profile (30_encoding.md R71). -/
def Profile.geow (p : Profile) : Word :=
  0#19 ++ p.dataWidthBits ++ 0#3 ++ p.dataStartBit

/-- The reserved bits of the words are 0: `PINW[31:30]`, `GEOW[7:5]`, `GEOW[31:13]` (43_host_commands.md R119). -/
def configBitsClear (pinw geow : Word) : Bool :=
  pinw.extractLsb' 30 2 == 0#2 && geow.extractLsb' 5 3 == 0#3 && geow.extractLsb' 13 19 == 0#19

/-- The six pin indices, in the order of `PINW`. -/
def Profile.pins (p : Profile) : List (BitVec 5) :=
  [p.pinProgram, p.pinInit, p.pinCsi, p.pinRdwr, p.pinClock, p.pinDone]

/-- The four addresses before the reduction modulo 2^`P_ADDR_WIDTH`. -/
def registerSums (q : Params) (p : Profile) : List Nat :=
  [p.ctrlBase + q.dirOff, p.ctrlBase + q.dataOff, p.dataBase + q.dirOff, p.dataBase + q.dataOff]

/-- A profile is well formed (00_scope.md R9; 43_host_commands.md R119): a width of 8 or 16, a bus inside the bank,
distinct pin indices, bases that are multiples of 4, and four register addresses that are distinct, do not wrap and are
multiples of 4. Windows that do not overlap are read as distinct addresses (20_memory.md R46; log 25). -/
def Profile.wellFormed (q : Params) (p : Profile) : Bool :=
  (p.dataWidthBits == 8#5 || p.dataWidthBits == 16#5)
    && decide (p.dataStartBit.toNat + p.dataWidthBits.toNat - 1 < 32)
    && decide p.pins.Nodup
    && decide (p.ctrlBase % 4 = 0) && decide (p.dataBase % 4 = 0)
    && decide (registerSums q p).Nodup
    && (registerSums q p).all (fun a => decide (a < 2 ^ q.addrWidth) && decide (a % 4 = 0))

/-- The two offsets are multiples of 4 and differ (20_memory.md R44). -/
def Params.wellFormed (q : Params) : Bool :=
  decide (q.dirOff % 4 = 0) && decide (q.dataOff % 4 = 0) && decide (q.dirOff ≠ q.dataOff)

end Sys2Proof
end

