-- ==== Sys2Proof/Machine/Ops.lean ====
section
/-! DEFINITION. The shared operations: the two bus transactions (20_memory.md), the port primitives as functions that
leave `WW` and `RV` alone (41_port_primitives.md, 42_sequencer.md), refusals and responses (60_exceptions.md R131,
30_encoding.md R78), the failure of an attempt and the start of the next one (60_exceptions.md R127, R136). -/

namespace Sys2Proof.Machine

/-! ## The banks -/

/-- `DIR_b`. -/
def Banks.dir (k : Banks) : Bank → Word
  | .ctrl => k.dirCtrl
  | .data => k.dirData

/-- `OUT_b`, the output latch of `DAT_b` (10_state.md R17). -/
def Banks.out (k : Banks) : Bank → Word
  | .ctrl => k.outCtrl
  | .data => k.outData

/-- A write of a bank register: `DIR_b`, or the whole latch `OUT_b` (10_state.md R16, R18). -/
def Banks.write (k : Banks) (b : Bank) (r : Reg) (v : Word) : Banks :=
  match b, r with
  | .ctrl, .dir => { k with dirCtrl := v }
  | .ctrl, .dat => { k with outCtrl := v }
  | .data, .dir => { k with dirData := v }
  | .data, .dat => { k with outData := v }

/-- The level of the pin at raw bit `k` of bank `b`, where `ext` are the levels driven from outside (10_state.md R24). -/
def Banks.pinLevel (k : Banks) (b : Bank) (bit : Nat) (ext : Word) : Bool :=
  if (k.dir b).getLsbD bit then (k.out b).getLsbD bit else ext.getLsbD bit

/-! ## The environment's draws -/

/-- `IN_b` at the next read: TARGET's next scripted levels, else a free value (10_state.md R17; log 5). -/
def Env.pins (e : Env) : Word :=
  match e.target with
  | v :: _ => v
  | [] => Config.freePins e.fresh

/-- The environment after those levels have been drawn. -/
def Env.afterDraw (e : Env) : Env :=
  match e.target with
  | _ :: vs => { e with target := vs }
  | [] => { e with fresh := e.fresh + 1 }

/-- The environment after a read of register `r`: a read of the data register of the real port draws the pin levels. -/
def Env.afterRead (e : Env) (r : Reg) : Env :=
  match r, e.backend with
  | .dat, .real => e.afterDraw
  | .dat, .simulated => e
  | .dir, _ => e

/-- What a read of register `r` of bank `b` returns: `DIR_b`; `(OUT_b & DIR_b) | (IN_b & ~DIR_b)` on the real port
(10_state.md R16, R17); `OUT_b` on every bit in the simulated backend (20_memory.md R60). -/
def readValue (k : Banks) (e : Env) (b : Bank) (r : Reg) : Word :=
  match r, e.backend with
  | .dir, _ => k.dir b
  | .dat, .real => (k.out b &&& k.dir b) ||| (e.pins &&& ~~~(k.dir b))
  | .dat, .simulated => k.out b

/-! ## Bus transactions -/

/-- `addr(b, r)` under the loaded profile (20_memory.md R47). -/
def State.addr (s : State) (b : Bank) (r : Reg) : Nat := busAddr s.params s.profile b r

/-- The raw value of `MemRead(addr(b, r), 4)` in state `s`. -/
def State.rawRead (s : State) (b : Bank) (r : Reg) : Word := readValue s.banks s.env b r

/-- The state after `MemRead(addr(b, r), 4)`: a read event in the trace, and the pin levels drawn (00_scope.md R12). -/
def State.afterRead (b : Bank) (r : Reg) (s : State) : State :=
  { s with trace := s.trace ++ [.read (s.addr b r) (s.rawRead b r)], env := s.env.afterRead r }

/-- The state after `MemWrite(addr(b, r), 4, v)`: the register written and a write event in the trace (00_scope.md R12). -/
def State.memWrite (b : Bank) (r : Reg) (v : Word) (s : State) : State :=
  { s with banks := s.banks.write b r v, trace := s.trace ++ [.write (s.addr b r) v] }

/-! ## The port primitives as functions -/

/-- `setBit(b, i, v)` (41_port_primitives.md R88). -/
def State.setBit (b : Bank) (i : BitVec 5) (v : Bool) (s : State) : State :=
  let l := bswap32 (s.rawRead b .dat)
  (s.afterRead b .dat).memWrite b .dat (bswap32 (withPin l i v))

/-- The bit `getBit(b, i)` returns (41_port_primitives.md R89); the state after it is `s.afterRead b .dat`. -/
def State.getBit (s : State) (b : Bank) (i : BitVec 5) : Bool := pinOf (bswap32 (s.rawRead b .dat)) i

/-- `pulse(b, i)`: one read, then the pin low, then the pin high (41_port_primitives.md R90). -/
def State.pulse (b : Bank) (i : BitVec 5) (s : State) : State :=
  let low := withPin (bswap32 (s.rawRead b .dat)) i false
  ((s.afterRead b .dat).memWrite b .dat (bswap32 low)).memWrite b .dat (bswap32 (withPin low i true))

/-- `setDirection(b, out, in)`: one read, then the inputs released, then the outputs asserted
(41_port_primitives.md R91). -/
def State.setDirection (b : Bank) (outMask inMask : Word) (s : State) : State :=
  let released := bswap32 (s.rawRead b .dir) &&& ~~~inMask
  ((s.afterRead b .dir).memWrite b .dir (bswap32 released)).memWrite b .dir (bswap32 (released ||| outMask))

/-! ## Responses and refusals -/

/-- The operation returns response word `v` to the issuing HOST (30_encoding.md R78). -/
def State.respond (v : Word) (s : State) : State := { s with resp := some v }

/-- `refuse(reason)`: no effect but the mark, and no response (60_exceptions.md R131; log 8). -/
def State.refuse (why : RefuseReason) (s : State) : State :=
  { s with refused := true, refusedFor := some why, resp := none }

/-- The common condition of the bank operations: refused with `NO_PROFILE` while `CFGV = 0`
(41_port_primitives.md R82). -/
def State.withProfile (s : State) (act : State) : State := if s.cfgv then act else s.refuse .noProfile

/-! ## The failure of an attempt, and the start of the next -/

/-- `raise Fail(reason)`: only `REASON`, `PH` and `ST` change (60_exceptions.md R127, R134). -/
def State.fail (why : Reason) (s : State) : State := { s with reason := why, ph := false, st := stFailed }

/-- The start of an attempt, which is the only way out of FAILED and DONE (60_exceptions.md R136; 43_host_commands.md
R120, R122): `REASON`, the phase and the counters cleared, and SETUP next. -/
def State.beginAttempt (resetOnly : Bool) (s : State) : State :=
  { s with ro := resetOnly, reason := .none, ph := false, poll := 0#32, idx := 0#32, scnt := 0#4, st := stSetup }

/-- The model's fault mark: set where the step selector is reserved (60_exceptions.md R132; log 9). DESIGN CHOICE: R132 says
that a faulted state is never final and the spec does not say what final means; here nothing ends and the mark stays
(log 31). -/
def State.noteFault (s : State) : State :=
  { s with fault := s.fault || (decodeSelector s.selector).isNone }

end Sys2Proof.Machine
end

