-- ==== Sys2Proof/Machine/BitPrimitives.lean ====
section
/-! DEFINITION. The bit primitives as operations of HOST: SETBIT, GETBIT, PULSE and SETDIR (41_port_primitives.md R88 to
R91). -/

namespace Sys2Proof.Machine

/-- SETBIT: set or clear one pin of a bank's data register (41_port_primitives.md R88). -/
def execSetbit (b : Bank) (v : Bool) (i : BitVec 5) (s : State) : Host.Outcome State Fault Refusal :=
  .next (s.withProfile ((s.setBit b i v).respond 0#32))

/-- GETBIT: read one pin of a bank's data register into `RV` (41_port_primitives.md R89). -/
def execGetbit (b : Bank) (i : BitVec 5) (s : State) : Host.Outcome State Fault Refusal :=
  .next (s.withProfile ({ s.afterRead b .dat with rv := s.getBit b i }.respond
    ((BitVec.ofBool (s.getBit b i)).setWidth 32)))

/-- PULSE: lower and then raise one pin (41_port_primitives.md R90). -/
def execPulse (b : Bank) (i : BitVec 5) (s : State) : Host.Outcome State Fault Refusal :=
  .next (s.withProfile ((s.pulse b i).respond 0#32))

/-- SETDIR: configure pins as outputs and inputs (41_port_primitives.md R91). -/
def execSetdir (b : Bank) (outMask inMask : Word) (s : State) : Host.Outcome State Fault Refusal :=
  .next (s.withProfile ((s.setDirection b outMask inMask).respond 0#32))

end Sys2Proof.Machine
end

