-- ==== Sys2Proof/Machine/Combinational.lean ====
section
/-! DEFINITION. The combinational operations BSWAP, SPLICE and LDW (41_port_primitives.md R83 to R85): they touch no bank
and need no profile (R82). -/

namespace Sys2Proof.Machine

/-- BSWAP: byte-swap the working word (41_port_primitives.md R83). -/
def execBswap (s : State) : Host.Outcome State Fault Refusal :=
  .next ({ s with ww := bswap32 s.ww }.respond (bswap32 s.ww))

/-- SPLICE: overwrite one 8-bit field of the working word; `O > 24` is refused (41_port_primitives.md R84). -/
def execSplice (o : BitVec 5) (y : Byte) (s : State) : Host.Outcome State Fault Refusal :=
  .next (if 24 < o.toNat then s.refuse .illegalEncoding
    else { s with ww := splice s.ww o.toNat y }.respond (splice s.ww o.toNat y))

/-- LDW: load the working word from an extension word (41_port_primitives.md R85). -/
def execLdw (imm : Word) (s : State) : Host.Outcome State Fault Refusal :=
  .next ({ s with ww := imm }.respond imm)

end Sys2Proof.Machine
end

