-- ==== Sys2Proof/Machine/HostCommands.lean ====
section
/-! DEFINITION. The host commands, as the block performs them once accepted (43_host_commands.md R118 to R123). The lock
that holds them while `BUSY = 1` is in Machine/Fetch.lean. -/

namespace Sys2Proof.Machine

/-- CMD.CONFIG: load the board profile and the wait bounds, or refuse a malformed profile (43_host_commands.md R118,
R119). -/
def execCmdConfig (pinw geow : Word) (ctrlBase dataBase : Nat) (iwb dwb : Word) (s : State) :
    Host.Outcome State Fault Refusal :=
  let prof := profileOf pinw geow ctrlBase dataBase
  .next (if configBitsClear pinw geow && prof.wellFormed s.params
    then { s with profile := prof, iwb := iwb, dwb := dwb, cfgv := true }.respond 0#32
    else s.refuse .badProfile)

/-- CMD.PROGRAM: start a full programming attempt (43_host_commands.md R120), with the refusals of R121 in their order.
A payload whose length does not fit `N` is no operand of the block (30_encoding.md R74; log 12). -/
def execCmdProgram (v : Bool) (pay : List Byte) (s : State) : Host.Outcome State Fault Refusal :=
  if 2 ^ 32 ≤ pay.length then .fault .payloadTooLong
  else .next (s.withProfile
    (if v && s.profile.dataWidthBits == 8#5 then s.refuse .widthMismatch
     else if v && pay.length % 2 == 1 then s.refuse .oddPayload
     else ({ s with w := v, pay := pay, n := BitVec.ofNat 32 pay.length }.beginAttempt false).respond 0#32))

/-- CMD.RESET_ONLY: start an attempt that resets the target and nothing more (43_host_commands.md R122). -/
def execCmdResetOnly (s : State) : Host.Outcome State Fault Refusal :=
  .next (s.withProfile ((s.beginAttempt true).respond 0#32))

/-- CMD.STATUS: read the sequencer status (43_host_commands.md R123). -/
def execCmdStatus (s : State) : Host.Outcome State Fault Refusal :=
  .next (s.respond s.statusWord)

end Sys2Proof.Machine
end

