-- ==== Sys2Proof/Machine/RawAccess.lean ====
section
/-! DEFINITION. Raw register access: RDREG and WRREG (41_port_primitives.md R86, R87). -/

namespace Sys2Proof.Machine

/-- RDREG: read a bank register raw into the working word (41_port_primitives.md R86). -/
def execRdreg (b : Bank) (r : Reg) (s : State) : Host.Outcome State Fault Refusal :=
  .next (s.withProfile ({ s.afterRead b r with ww := s.rawRead b r }.respond (s.rawRead b r)))

/-- WRREG: write the working word raw to a bank register (41_port_primitives.md R87). -/
def execWrreg (b : Bank) (r : Reg) (s : State) : Host.Outcome State Fault Refusal :=
  .next (s.withProfile ((s.memWrite b r s.ww).respond 0#32))

end Sys2Proof.Machine
end

