-- ==== Sys2Proof/Machine/Sequencer.lean ====
section
/-! DEFINITION. The sequencer's step rules (42_sequencer.md R96 to R110), one per selector. -/

namespace Sys2Proof.Machine

/-- STEP.IDLE: no step is taken (42_sequencer.md R96; log 10). -/
def execStepIdle (s : State) : Host.Outcome State Fault Refusal := .next s

/-- STEP.SETUP: configure the pin directions for the attempt (42_sequencer.md R97). -/
def execStepSetup (s : State) : Host.Outcome State Fault Refusal :=
  let s1 := s.setDirection .ctrl s.profile.ctrlOut s.profile.ctrlIn
  let s2 := s1.setDirection .data s.profile.dataOut 0#32
  .next { s2 with ph := false, st := stReset }

/-- The action of RESET: the inactive pattern, then the PROGRAM pulse (42_sequencer.md R98). -/
def State.resetAction (s : State) : State :=
  let s1 := s.setBit .ctrl s.profile.pinCsi true
  let s2 := s1.setBit .ctrl s.profile.pinRdwr true
  let s3 := s2.setBit .ctrl s.profile.pinProgram true
  let s4 := s3.setBit .ctrl s.profile.pinClock true
  s4.pulse .ctrl s.profile.pinProgram

/-- The reset-only exit of RESET (42_sequencer.md R99). -/
def State.resetOnlyExit (s : State) : State := { s with reason := .none, st := stDone }

/-- The entry to WAIT_INIT; a zero bound allows no poll (42_sequencer.md R100). -/
def State.enterWaitInit (s : State) : State :=
  let s1 := { s with poll := 0#32 }
  if s.iwb = 0#32 then s1.fail .initTimeout else { s1 with st := stWaitInit }

/-- STEP.RESET: drive the inactive pattern, pulse PROGRAM, and leave (42_sequencer.md R98 to R100). -/
def execStepReset (s : State) : Host.Outcome State Fault Refusal :=
  .next (if s.ro then s.resetAction.resetOnlyExit else s.resetAction.enterWaitInit)

/-- STEP.WAIT_INIT: one poll of INIT; a 1 wins over the bound (42_sequencer.md R101). -/
def execStepWaitInit (s : State) : Host.Outcome State Fault Refusal :=
  let x := s.getBit .ctrl s.profile.pinInit
  let s1 := { s.afterRead .ctrl .dat with poll := s.poll + 1#32 }
  .next (if x then { s1 with idx := 0#32, ph := false, st := stShifting }
    else if s.poll + 1#32 = s.iwb then s1.fail .initTimeout
    else s1)

/-- One frame of the framing: CLOCK low, the signal low, CLOCK high (42_sequencer.md R102). -/
def State.frameSignal (clock signal : BitVec 5) (s : State) : State :=
  ((s.setBit .ctrl clock false).setBit .ctrl signal false).setBit .ctrl clock true

/-- STEP.SHIFT_FRAME: the clock-framed lowering of RDWR and then CSI (42_sequencer.md R102). -/
def execStepShiftFrame (s : State) : Host.Outcome State Fault Refusal :=
  let s1 := s.frameSignal s.profile.pinClock s.profile.pinRdwr
  let s2 := s1.frameSignal s.profile.pinClock s.profile.pinCsi
  .next (if s.n = 0#32 then { s2 with ph := false, st := stWaitDone } else { s2 with ph := true })

/-- `PAY[j]`; a free value beyond the payload's end, where no reachable state reads (42_sequencer.md R103; log 11). -/
def State.payByte (s : State) (j : Nat) : Byte :=
  match s.pay[j]? with
  | some y => y
  | none => Config.freeByte s.env.fresh j

/-- The environment after a chunk's bytes have been read: a read beyond the payload has taken a free value (log 11). -/
def State.afterPay (s : State) : Env :=
  if s.idx.toNat + s.busWidth.toNat ≤ s.pay.length then s.env else { s.env with fresh := s.env.fresh + 1 }

/-- The chunk at `IDX` placed on the lanes of logical word `l`: `PAY[IDX]` in the lower lane, or `PAY[IDX]` in the upper
and `PAY[IDX + 1]` in the lower lane when `busWidth = 2` (42_sequencer.md R103, 30_encoding.md R66). -/
def State.chunkWord (s : State) (l : Word) : Word :=
  if s.w then splice (splice l s.profile.up (s.payByte s.idx.toNat)) s.profile.lo (s.payByte (s.idx.toNat + 1))
  else splice l s.profile.lo (s.payByte s.idx.toNat)

/-- A chunk placed on the data bus, then one clock pulse (42_sequencer.md R103, 70_reset_and_hazards.md R158). -/
def State.emitChunk (s : State) : State :=
  let v := bswap32 (s.chunkWord (bswap32 (s.rawRead .data .dat)))
  let s1 := s.afterRead .data .dat
  ({ s1 with env := s1.afterPay }.memWrite .data .dat v).pulse .ctrl s.profile.pinClock

/-- The end of a chunk step: `IDX` moves on, and the last chunk leads to WAIT_DONE (42_sequencer.md R103). -/
def State.advanceIdx (s : State) : State :=
  let s1 := { s with idx := s.idx + s.busWidth }
  if s1.idx = s1.n then { s1 with ph := false, st := stWaitDone } else s1

/-- STEP.SHIFT_CHUNK: emit one chunk (42_sequencer.md R103). -/
def execStepShiftChunk (s : State) : Host.Outcome State Fault Refusal :=
  .next s.emitChunk.advanceIdx

/-- STEP.CHECK_INIT: re-check INIT once after the shift (42_sequencer.md R105). -/
def execStepCheckInit (s : State) : Host.Outcome State Fault Refusal :=
  let x := s.getBit .ctrl s.profile.pinInit
  let s1 := s.afterRead .ctrl .dat
  let s2 := { s1 with poll := 0#32 }
  .next (if x = false then s1.fail .programmingRejected
    else if s.dwb = 0#32 then s2.fail .doneTimeout
    else { s2 with ph := true })

/-- STEP.POLL_DONE: one poll of DONE; a 1 wins over the bound (42_sequencer.md R107). -/
def execStepPollDone (s : State) : Host.Outcome State Fault Refusal :=
  let x := s.getBit .ctrl s.profile.pinDone
  let s1 := { s.afterRead .ctrl .dat with poll := s.poll + 1#32 }
  .next (if x then { s1 with scnt := 0#4, ph := false, st := stCompleting }
    else if s.poll + 1#32 = s.dwb then s1.fail .doneTimeout
    else s1)

/-- STEP.COMPLETING: one startup clock pulse (42_sequencer.md R108). -/
def execStepCompleting (s : State) : Host.Outcome State Fault Refusal :=
  let s1 := s.pulse .ctrl s.profile.pinClock
  let s2 := { s1 with scnt := s.scnt + 1#4 }
  .next (if s2.scnt = Config.startupClocks then { s2 with reason := .none, st := stDone } else s2)

/-- STEP.DONE: terminal success, no step (42_sequencer.md R109; log 10). -/
def execStepDone (s : State) : Host.Outcome State Fault Refusal := .next s

/-- STEP.FAILED: terminal failure, no step (42_sequencer.md R110; log 10). -/
def execStepFailed (s : State) : Host.Outcome State Fault Refusal := .next s

end Sys2Proof.Machine
end

