-- ==== Sys2Proof/Machine/Dispatch.lean ====
section
/-! DEFINITION. exec: one arm per instruction. -/

namespace Sys2Proof.Machine

def exec (i : Instr) (s : State) : Host.Outcome State Fault Refusal :=
  match i with
  | .bswap => Sys2Proof.Machine.execBswap s
  | .splice o y => Sys2Proof.Machine.execSplice o y s
  | .setbit b v p => Sys2Proof.Machine.execSetbit b v p s
  | .getbit b p => Sys2Proof.Machine.execGetbit b p s
  | .pulse b p => Sys2Proof.Machine.execPulse b p s
  | .setdir b outMask inMask => Sys2Proof.Machine.execSetdir b outMask inMask s
  | .rdreg b r => Sys2Proof.Machine.execRdreg b r s
  | .wrreg b r => Sys2Proof.Machine.execWrreg b r s
  | .ldw imm => Sys2Proof.Machine.execLdw imm s
  | .cmdConfig pinw geow ctrlBase dataBase iwb dwb => Sys2Proof.Machine.execCmdConfig pinw geow ctrlBase dataBase iwb dwb s
  | .cmdProgram v pay => Sys2Proof.Machine.execCmdProgram v pay s
  | .cmdResetOnly => Sys2Proof.Machine.execCmdResetOnly s
  | .cmdStatus => Sys2Proof.Machine.execCmdStatus s
  | .stepIdle => Sys2Proof.Machine.execStepIdle s
  | .stepSetup => Sys2Proof.Machine.execStepSetup s
  | .stepReset => Sys2Proof.Machine.execStepReset s
  | .stepWaitInit => Sys2Proof.Machine.execStepWaitInit s
  | .stepShiftFrame => Sys2Proof.Machine.execStepShiftFrame s
  | .stepShiftChunk => Sys2Proof.Machine.execStepShiftChunk s
  | .stepCheckInit => Sys2Proof.Machine.execStepCheckInit s
  | .stepPollDone => Sys2Proof.Machine.execStepPollDone s
  | .stepCompleting => Sys2Proof.Machine.execStepCompleting s
  | .stepDone => Sys2Proof.Machine.execStepDone s
  | .stepFailed => Sys2Proof.Machine.execStepFailed s

end Sys2Proof.Machine
end

