-- ==== Sys2Proof/Machine/Fetch.lean ====
section
/-! DEFINITION. How an operation reaches exec: a HOST's stream, the legality check, the session lock and the release of
held operations (43_host_commands.md R116, R117; 60_exceptions.md R133), the sequencer's own step (42_sequencer.md R94),
the responses (30_encoding.md R78), and the placing of one word for `State.withFetchWord`. -/

namespace Sys2Proof.Machine

/-- The `k`-th HOST changed by `f`; nothing if there is none. -/
def updateHost (f : HostAgent → HostAgent) : Nat → List HostAgent → List HostAgent
  | _, [] => []
  | 0, h :: hs => f h :: hs
  | k + 1, h :: hs => h :: updateHost f k hs

/-- The response of the operation `i` just performed goes to the HOST that issued it (30_encoding.md R78). -/
def State.deliver (k : Nat) (i : Instr) (s : State) : State :=
  match s.resp with
  | none => s
  | some v => { s with hosts := updateHost (fun h => { h with inbox := h.inbox ++ [⟨i, v⟩] }) k s.hosts }

/-- An outcome with its next state changed by `f`. -/
def onNext (f : State → State) : Host.Outcome State Fault Refusal → Host.Outcome State Fault Refusal
  | .next t => .next (f t)
  | .fault r => .fault r
  | .refused r => .refused r

/-- An accepted operation of HOST `k` is performed, and its response delivered (43_host_commands.md R116). -/
def perform (k : Nat) (i : Instr) (s : State) : Host.Outcome State Fault Refusal :=
  onNext (State.deliver k i) (exec i s)

/-- The lock: while `BUSY = 1` every operation but CMD.STATUS is held (43_host_commands.md R117), for a number of steps
that is free and finite (log 34). The whole-`run` session lock of a HOST plays no part here (log 37). -/
def accept (k : Nat) (i : Instr) (s : State) : Host.Outcome State Fault Refusal :=
  if s.busy && !decide (i = .cmdStatus) then .next { s with held := s.held ++ [⟨k, i, Config.freePatience s.env.fresh⟩] }
  else perform k i s

/-- The front of HOST `k`'s stream reaches the block: an illegal word is refused at once, even while busy; a legal
operation meets the lock (60_exceptions.md R133; log 14, log 15). DESIGN CHOICE: that is the block's lock alone; the
whole-`run` session lock of another HOST's run does not keep a word out (60_exceptions.md R150; log 37). -/
def arrive (k : Nat) (s : State) : Host.Outcome State Fault Refusal :=
  match s.hosts[k]? with
  | none => .next s
  | some h =>
    match decodeStream s.params.addrWidth h.stream h.pays with
    | .incomplete => .next s
    | .illegal _ =>
      .next ({ s with hosts := updateHost (fun h => { h with stream := h.stream.tail }) k s.hosts }.refuse
        .illegalEncoding)
    | .op i ws ps =>
      accept k i { s with hosts := updateHost (fun h => { h with stream := ws, pays := ps }) k s.hosts }

/-- At most one held operation, any of them, is accepted once `BUSY = 0` (43_host_commands.md R117; log 16). -/
def release (k : Nat) (s : State) : Host.Outcome State Fault Refusal :=
  if s.busy then .next s
  else
    match s.held[k % s.held.length]? with
    | none => .next s
    | some h => perform h.host h.instr { s with held := s.held.eraseIdx (k % s.held.length) }

/-- One sequencer step: the rule the selector names (42_sequencer.md R94); a reserved selector has no step
(60_exceptions.md R132). -/
def seqStep (s : State) : Host.Outcome State Fault Refusal :=
  match decodeSelector s.selector with
  | some i => exec i s
  | none => .next s

/-- A raw word with pin `i` set to a given level, or left alone. -/
def injectPin (raw : Word) (i : BitVec 5) : Option Bool → Word
  | none => raw
  | some v => bswap32 (withPin (bswap32 raw) i v)

/-- The test of the simulated backend sets the INIT and DONE bits of the in-memory register (20_memory.md R60; log 19).
DESIGN CHOICE: it can do so while no profile is loaded too, at the indices the profile registers hold (log 35). -/
def State.inject (init done : Option Bool) (s : State) : State :=
  match s.env.backend with
  | .real => s
  | .simulated =>
    { s with banks := { s.banks with
        outCtrl := injectPin (injectPin s.banks.outCtrl s.profile.pinInit init) s.profile.pinDone done } }

/-- The words of one operation placed first in the stream of HOST 0. -/
def placeFirst (words : List Word) (pays : List (List Byte)) : List HostAgent → List HostAgent
  | [] => [{ HostAgent.quiet with stream := words, pays := pays }]
  | h :: hs => { h with stream := words ++ h.stream, pays := pays ++ h.pays } :: hs

/-- The bits `w` of one row of the opcode table placed so that the next step runs them (log 22): a step row sets the
selector `PH ++ ST` and gives the sequencer the next move; an operation row is put at the front of HOST 0's stream,
with the block not busy, and gives that HOST the next move. -/
def State.placeWord (s : State) (nbits w : Nat) : State :=
  if nbits ≤ 8 then
    { s with st := BitVec.ofNat 4 w, ph := (BitVec.ofNat 5 w).getLsbD 4, env := { s.env with sched := .seq :: s.env.sched } }
  else
    { s with
      st := if s.busy then stIdle else s.st
      ph := if s.busy then false else s.ph
      hosts := placeFirst (tableStream s.params.addrWidth w) (tablePays w) s.hosts
      env := { s.env with sched := .host 0 :: s.env.sched } }

end Sys2Proof.Machine
end

