-- ==== Sys2Proof/Machine/Orchestrator.lean ====
section
/-! DEFINITION. The HOST's contract, the orchestrator of 60_exceptions.md section 6 (R143 to R150): one `run` of a HOST as
a machine that issues operation words and reads response words. Fetching and parsing the image are outside the block
(00_scope.md R5): their answers are inputs (log 21). -/

namespace Sys2Proof.Machine

/-- An ASCII capital as the small letter (60_exceptions.md R145). -/
def lowerAscii (c : Byte) : Byte := if 0x41 ≤ c.toNat ∧ c.toNat ≤ 0x5A then c + 0x20#8 else c

/-- The reset sentinel, "reset" (60_exceptions.md R145). -/
def resetSentinel : List Byte := [0x72#8, 0x65#8, 0x73#8, 0x65#8, 0x74#8]

/-- The image source is the reset sentinel, compared without regard to case (60_exceptions.md R145). -/
def isResetSentinel (source : List Byte) : Bool := source.map lowerAscii == resetSentinel

/-- The profile of a board identifier, or the documented fallback (60_exceptions.md R143). -/
def resolveBoard (q : Params) (boardId : List Byte) : Profile :=
  match q.boards.find? (fun x => x.1 == boardId) with
  | some x => x.2
  | none => q.defaultBoard

/-- The width code of a bus width: 2 is code 1, everything else falls back to code 0 (60_exceptions.md R144). -/
def widthCode (busWidth : Nat) : Bool := busWidth == 2

/-- A HOST's request, before its first step (60_exceptions.md section 6). -/
def HostRun.request (boardId : List Byte) (busWidth : Nat) (source : List Byte) (iwb dwb : Word)
    (images : List ImageResult) : HostRun :=
  ⟨boardId, busWidth, source, iwb, dwb, images, .waitLock, 0, none⟩

/-- The CMD.CONFIG a run issues: the resolved profile and the bounds (60_exceptions.md R143). -/
def HostRun.configOp (q : Params) (r : HostRun) : Instr :=
  let p := resolveBoard q r.boardId
  .cmdConfig p.pinw p.geow p.ctrlBase p.dataBase r.iwb r.dwb

/-- A HOST issues an operation: its words join the stream and its payload is presented (30_encoding.md R69, R74). -/
def HostAgent.issue (aw : Nat) (i : Instr) (h : HostAgent) : HostAgent :=
  { h with stream := h.stream ++ (encode aw i).words, pays := h.pays ++ (encode aw i).pays }

/-- A HOST whose run is now `r`. -/
def HostAgent.withRun (r : HostRun) (h : HostAgent) : HostAgent := { h with run := some r }

/-- A HOST takes the oldest response from its inbox. -/
def HostAgent.takeResponse (h : HostAgent) : HostAgent := { h with inbox := h.inbox.tail }

/-- A HOST drops what its earlier words left: responses it has not used and payloads no CMD.PROGRAM claimed (log 32). -/
def HostAgent.forget (h : HostAgent) : HostAgent := { h with inbox := [], pays := [] }

/-- A run that has come to its end (60_exceptions.md R150). -/
def HostRun.finished (r : HostRun) : Bool :=
  match r.phase with
  | .succeeded | .failed _ => true
  | .waitLock | .awaitConfig | .nextAttempt | .awaitStart | .awaitStatus => false

/-- The operation whose response a run waits for (60_exceptions.md R143, R145, R146). -/
def HostRun.awaits (r : HostRun) (i : Instr) : Bool :=
  match r.phase, i with
  | .awaitConfig, .cmdConfig _ _ _ _ _ _ => true
  | .awaitStart, .cmdResetOnly => isResetSentinel r.imageSource
  | .awaitStart, .cmdProgram _ _ => !isResetSentinel r.imageSource
  | .awaitStatus, .cmdStatus => true
  | _, _ => false

/-- The answer a run waits for, once the HOST has received it: the response word of that operation (log 32). -/
def HostAgent.answer (r : HostRun) (h : HostAgent) : Option Word :=
  match h.inbox with
  | [] => none
  | x :: _ => if r.awaits x.op then some x.word else none

/-- The error kind of a failed image (60_exceptions.md R146). -/
def imageError : ImageResult → Option LoadError
  | .payload _ => none
  | .unavailable => some .firmwareUnavailable
  | .corruptHeader => some .corruptHeader
  | .truncated => some .truncatedInput

/-- The error kind of a status word's `REASON` (60_exceptions.md R146, 30_encoding.md R77, R78). -/
def statusError (v : Word) : Option LoadError :=
  if v.extractLsb' 6 2 = 1#2 then some .initTimeout
  else if v.extractLsb' 6 2 = 2#2 then some .programmingRejected
  else if v.extractLsb' 6 2 = 3#2 then some .doneTimeout
  else none

/-- The answer of fetch and parse in the next attempt: the run's next one, else a free value (log 21). -/
def HostRun.nextImage (e : Env) (r : HostRun) : ImageResult :=
  match r.images with
  | x :: _ => x
  | [] => Config.freeImage e.fresh

/-- The environment after that answer. -/
def Env.afterImage (e : Env) (r : HostRun) : Env :=
  match r.images with
  | _ :: _ => e
  | [] => { e with fresh := e.fresh + 1 }

/-- Every word HOST `k` has issued has been performed or refused: none is in its stream, none is held (log 32). -/
def State.settled (k : Nat) (h : HostAgent) (s : State) : Bool :=
  h.stream.isEmpty && s.held.all (fun o => o.host != k)

/-- HOST `k` becomes `h`. -/
def State.setHost (k : Nat) (h : HostAgent) (s : State) : State :=
  { s with hosts := updateHost (fun _ => h) k s.hosts }

/-- The end of a run: the session lock is released on every path (60_exceptions.md R150). -/
def State.finishRun (k : Nat) (h : HostAgent) (r : HostRun) (s : State) : State :=
  { s.setHost k (h.withRun r) with runLock := if s.runLock = some k then none else s.runLock }

/-- One attempt begins, or the run ends when `P_MAX_ATTEMPTS` have been made (60_exceptions.md R146, R147). DESIGN CHOICE: a
retry issues no SETDIR and no second CMD.CONFIG, which R148 allows and does not ask for (log 36). -/
def State.runAttempt (k : Nat) (h : HostAgent) (r : HostRun) (s : State) : State :=
  if Config.maxAttempts ≤ r.attempts then s.finishRun k h { r with phase := .failed r.lastError }
  else
    let r1 := { r with attempts := r.attempts + 1, images := r.images.tail }
    let s1 := { s with env := s.env.afterImage r }
    match r.nextImage s.env with
    | .payload bytes =>
      s1.setHost k ((h.issue s.params.addrWidth (.cmdProgram (widthCode r.busWidth) bytes)).withRun
        { r1 with phase := .awaitStart })
    | failure => s1.setHost k (h.withRun { r1 with lastError := imageError failure })

/-- What a run does with a status word: poll again while `BUSY`; then reset-only is a success, `ST = DONE` is a success,
`ST = FAILED` is the failure `REASON` names (60_exceptions.md R145, R146; log 20). -/
def State.runStatus (k : Nat) (v : Word) (h : HostAgent) (r : HostRun) (s : State) : State :=
  let again := s.setHost k (h.issue s.params.addrWidth .cmdStatus)
  if v.getLsbD 8 then again
  else if isResetSentinel r.imageSource || v.extractLsb' 0 4 == stDone then
    s.finishRun k h { r with phase := .succeeded }
  else if v.extractLsb' 0 4 = stFailed then
    s.setHost k (h.withRun { r with lastError := statusError v, phase := .nextAttempt })
  else again

/-- HOST `k` takes one step of its `run`, if it has one; nothing while it waits for a response, for the lock or for its
earlier words (60_exceptions.md R143 to R150; phases: log 20; a run reads the responses of its own operations only: log
32). DESIGN CHOICE: a HOST makes at most one `run`, fixed at power-on; once that has succeeded or failed no move begins
another (log 33). -/
def State.runHost (k : Nat) (s : State) : State :=
  match s.hosts[k]? with
  | none => s
  | some h =>
    match h.run with
    | none => s
    | some r =>
      match r.phase with
      | .waitLock =>
        match s.runLock with
        | some _ => s
        | none =>
          if s.settled k h then
            { s.setHost k
                ((h.forget.issue s.params.addrWidth (r.configOp s.params)).withRun { r with phase := .awaitConfig })
              with runLock := some k }
          else s
      | .awaitConfig =>
        match h.answer r with
        | none => s
        | some _ =>
          if isResetSentinel r.imageSource then
            s.setHost k ((h.takeResponse.issue s.params.addrWidth .cmdResetOnly).withRun { r with phase := .awaitStart })
          else s.setHost k (h.takeResponse.withRun { r with phase := .nextAttempt })
      | .nextAttempt => s.runAttempt k h r
      | .awaitStart =>
        match h.answer r with
        | none => s
        | some _ =>
          s.setHost k ((h.takeResponse.issue s.params.addrWidth .cmdStatus).withRun { r with phase := .awaitStatus })
      | .awaitStatus =>
        match h.answer r with
        | none => s
        | some v => s.runStatus k v h.takeResponse r
      | .succeeded => s
      | .failed _ => s

end Sys2Proof.Machine
end

