-- ==== Sys2Proof/Machine/Schedule.lean ====
section
/-! DEFINITION. Which agent moves at a step, and what its move does (00_scope.md R6, 42_sequencer.md R94; log 6); that the
sequencer of a busy block moves and a held operation is accepted in the end (43_host_commands.md R117; log 34). -/

namespace Sys2Proof.Machine

/-- The first held operation that may not be passed over any more (43_host_commands.md R117; log 34). -/
def State.overdue (s : State) : Option Nat := s.held.findIdx? (fun o => o.patience == 0)

/-- A move that no script fixes: the sequencer of a busy block once its slack is used up; the release of an overdue
operation; else any agent's move, a free value (42_sequencer.md R94, 43_host_commands.md R117; log 34). -/
def State.freeMove (s : State) : Move :=
  if s.busy then (if s.env.slack = 0 then .seq else Config.freeMove s.env.fresh)
  else
    match s.overdue with
    | some j => .release j
    | none => Config.freeMove s.env.fresh

/-- The next move: the schedule's next one, else one that no script fixes. -/
def State.nextMove (s : State) : Move :=
  match s.env.sched with
  | m :: _ => m
  | [] => s.freeMove

/-- The environment after the move has been chosen: a move of another agent while the block is busy uses up slack, every
other step draws it anew. -/
def State.envAfter (s : State) : Env :=
  { s.env with
    sched := s.env.sched.tail
    fresh := s.env.fresh + 1
    slack := if s.busy && !decide (s.nextMove = .seq) then s.env.slack - 1 else Config.freeSlack s.env.fresh }

/-- A held operation that has been passed over once more. -/
def HeldOp.passed (o : HeldOp) : HeldOp := { o with patience := o.patience - 1 }

/-- The held operations as a step sees them: with `BUSY = 0` each one it does not accept is passed over. -/
def State.waiting (s : State) : List HeldOp := if s.busy then s.held else s.held.map HeldOp.passed

/-- The state a move acts on: the move has been chosen, the held operations have waited, and a reserved selector has set the
fault mark (60_exceptions.md R132). -/
def State.ready (s : State) : State := { s with env := s.envAfter, held := s.waiting }.noteFault

/-- What a move does. -/
def runMove (m : Move) (s : State) : Host.Outcome State Fault Refusal :=
  match m with
  | .host k => arrive k s
  | .seq => seqStep s
  | .release k => release k s
  | .run k => .next (s.runHost k)
  | .inject init done => .next (s.inject init done)

end Sys2Proof.Machine
end

