-- ==== Sys2Proof/Machine/Assembler.lean ====
section
/-! DEFINITION. The assembler of 30_encoding.md R79 to R81: lines with their operands, signal names as pins of bank CTRL,
and the pseudo-instructions with their expansions. The text of numbers is not given by the spec: operands are numbers
here (log 27). -/

namespace Sys2Proof.Machine

/-- A `pin` operand: a number, or a signal name (30_encoding.md R79, R80). -/
inductive PinOperand
  | index (n : Nat)
  | signal (g : Signal)
  deriving DecidableEq, Repr

/-- Why a line does not assemble. -/
inductive AsmError
  /-- An operand outside its range (30_encoding.md R79). -/
  | operandRange
  /-- A signal name with bank DATA (30_encoding.md R80). -/
  | signalOnData
  deriving DecidableEq, Repr

/-- One line (30_encoding.md R79), or a pseudo-instruction (R81). -/
inductive AsmLine
  | bswap
  | splice (o y : Nat)
  | ldw (imm : Nat)
  | rdreg (b : Bank) (r : Reg)
  | wrreg (b : Bank) (r : Reg)
  | setbit (b : Bank) (p : PinOperand) (v : Nat)
  | getbit (b : Bank) (p : PinOperand)
  | pulse (b : Bank) (p : PinOperand)
  | setdir (b : Bank) (outMask inMask : Nat)
  | config (pinw geow ctrlBase dataBase iwb dwb : Nat)
  | program (w : Nat) (pay : List Byte)
  | resetOnly
  | status
  | set (b : Bank) (p : PinOperand)
  | clr (b : Bank) (p : PinOperand)
  | clk
  | putb (o y : Nat)
  | dirsetup
  deriving DecidableEq, Repr

/-- The mnemonic that begins a line (30_encoding.md R79, R81). -/
def AsmLine.mnemonic : AsmLine → String
  | .bswap => "BSWAP"
  | .splice _ _ => "SPLICE"
  | .ldw _ => "LDW"
  | .rdreg _ _ => "RDREG"
  | .wrreg _ _ => "WRREG"
  | .setbit _ _ _ => "SETBIT"
  | .getbit _ _ => "GETBIT"
  | .pulse _ _ => "PULSE"
  | .setdir _ _ _ => "SETDIR"
  | .config _ _ _ _ _ _ => "CONFIG"
  | .program _ _ => "PROGRAM"
  | .resetOnly => "RESETONLY"
  | .status => "STATUS"
  | .set _ _ => "SET"
  | .clr _ _ => "CLR"
  | .clk => "CLK"
  | .putb _ _ => "PUTB"
  | .dirsetup => "DIRSETUP"

/-- An operand of `n` bits. -/
def operand (n x : Nat) : Except AsmError (BitVec n) :=
  if x < 2 ^ n then .ok (BitVec.ofNat n x) else .error .operandRange

/-- A splice offset, 0..24 (30_encoding.md R79). -/
def offsetOperand (x : Nat) : Except AsmError (BitVec 5) := if x ≤ 24 then operand 5 x else .error .operandRange

/-- A bank base, which must fit its extension words (30_encoding.md R71). -/
def baseOperand (aw x : Nat) : Except AsmError Nat :=
  if x < 2 ^ (32 * baseWords aw) then .ok x else .error .operandRange

/-- A payload, whose length must fit `N` (30_encoding.md R74). -/
def payloadOperand (pay : List Byte) : Except AsmError (List Byte) :=
  if pay.length < 2 ^ 32 then .ok pay else .error .operandRange

/-- A pin, with a signal name replaced by the profile's index (30_encoding.md R80). -/
def pinOperand (p : Profile) (b : Bank) : PinOperand → Except AsmError (BitVec 5)
  | .index n => operand 5 n
  | .signal g =>
    match b with
    | .ctrl => .ok (p.pin g)
    | .data => .error .signalOnData

/-- The bit value operand of SETBIT, 0 or 1 (30_encoding.md R79). -/
def bitOperand (x : Nat) : Except AsmError Bool :=
  if x = 0 then .ok false else if x = 1 then .ok true else .error .operandRange

/-- The width operand of PROGRAM: 1 or 2 bytes, `V = w - 1` (30_encoding.md R79). -/
def widthOperand (x : Nat) : Except AsmError Bool :=
  if x = 1 then .ok false else if x = 2 then .ok true else .error .operandRange

/-- The operations a line stands for, for a bus address of `aw` bits, assembled against profile `p` (30_encoding.md R79
to R81). -/
def AsmLine.expand (aw : Nat) (p : Profile) : AsmLine → Except AsmError (List Instr)
  | .bswap => .ok [.bswap]
  | .splice o y => do
    let o ← offsetOperand o
    let y ← operand 8 y
    pure [.splice o y]
  | .ldw imm => do
    let imm ← operand 32 imm
    pure [.ldw imm]
  | .rdreg b r => .ok [.rdreg b r]
  | .wrreg b r => .ok [.wrreg b r]
  | .setbit b q v => do
    let i ← pinOperand p b q
    let v ← bitOperand v
    pure [.setbit b v i]
  | .getbit b q => do
    let i ← pinOperand p b q
    pure [.getbit b i]
  | .pulse b q => do
    let i ← pinOperand p b q
    pure [.pulse b i]
  | .setdir b outMask inMask => do
    let o ← operand 32 outMask
    let i ← operand 32 inMask
    pure [.setdir b o i]
  | .config pinw geow ctrlBase dataBase iwb dwb => do
    let pinw ← operand 32 pinw
    let geow ← operand 32 geow
    let ctrlBase ← baseOperand aw ctrlBase
    let dataBase ← baseOperand aw dataBase
    let iwb ← operand 32 iwb
    let dwb ← operand 32 dwb
    pure [.cmdConfig pinw geow ctrlBase dataBase iwb dwb]
  | .program w pay => do
    let v ← widthOperand w
    let pay ← payloadOperand pay
    pure [.cmdProgram v pay]
  | .resetOnly => .ok [.cmdResetOnly]
  | .status => .ok [.cmdStatus]
  | .set b q => do
    let i ← pinOperand p b q
    pure [.setbit b true i]
  | .clr b q => do
    let i ← pinOperand p b q
    pure [.setbit b false i]
  | .clk => .ok [.pulse .ctrl p.pinClock]
  | .putb o y => do
    let o ← offsetOperand o
    let y ← operand 8 y
    pure [.rdreg .data .dat, .bswap, .splice o y, .bswap, .wrreg .data .dat]
  | .dirsetup => .ok [.setdir .ctrl p.ctrlOut p.ctrlIn, .setdir .data p.dataOut 0#32]

/-- The words a line assembles to, with the payloads presented beside them (30_encoding.md R69, R74). -/
def AsmLine.assemble (aw : Nat) (p : Profile) (l : AsmLine) : Except AsmError (List Word × List (List Byte)) :=
  match l.expand aw p with
  | .error e => .error e
  | .ok is => .ok ((is.map (fun i => (encode aw i).words)).flatten, (is.map (fun i => (encode aw i).pays)).flatten)

end Sys2Proof.Machine
end

