-- ==== Sys2Proof/Safety.lean ====
section
/-! DEFINITION. What counts as a safe run, in the terms the claims use: a clean state (10_state.md R40), runs of the
sequencer alone, the levels and directions of an attempt (30_encoding.md R67), the trace read back as register
contents (00_scope.md R13), held operations accepted and runs in step, and the invariant of the machine. -/

namespace Sys2Proof.Machine

/-- No refusal and no fault recorded (10_state.md R40). -/
def State.clean (s : State) : Bool := !s.refused && !s.fault

/-- An operation that arrives as a word of a HOST's stream; the others are the sequencer's own steps. -/
def hostOperation : Instr → Bool
  | .bswap | .splice _ _ | .setbit _ _ _ | .getbit _ _ | .pulse _ _ | .setdir _ _ _ | .rdreg _ _ | .wrreg _ _
  | .ldw _ | .cmdConfig _ _ _ _ _ _ | .cmdProgram _ _ | .cmdResetOnly | .cmdStatus => true
  | .stepIdle | .stepSetup | .stepReset | .stepWaitInit | .stepShiftFrame | .stepShiftChunk | .stepCheckInit
  | .stepPollDone | .stepCompleting | .stepDone | .stepFailed => false

/-- A port operation of 41_port_primitives.md (R82). -/
def portOperation : Instr → Bool
  | .bswap | .splice _ _ | .setbit _ _ _ | .getbit _ _ | .pulse _ _ | .setdir _ _ _ | .rdreg _ _ | .wrreg _ _
  | .ldw _ => true
  | .cmdConfig _ _ _ _ _ _ | .cmdProgram _ _ | .cmdResetOnly | .cmdStatus
  | .stepIdle | .stepSetup | .stepReset | .stepWaitInit | .stepShiftFrame | .stepShiftChunk | .stepCheckInit
  | .stepPollDone | .stepCompleting | .stepDone | .stepFailed => false

/-- A stream's words and payloads decode, one operation after the other, to these operations and nothing is left
(30_encoding.md R69, R74). -/
def DecodesTo (aw : Nat) : List Instr → List Word → List (List Byte) → Prop
  | [], ws, ps => ws = [] ∧ ps = []
  | i :: is, ws, ps => ∃ ws' ps', decodeStream aw ws ps = .op i ws' ps' ∧ DecodesTo aw is ws' ps'

/-- `k` sequencer steps and nothing else, stopping at the first that does not complete (42_sequencer.md R94). -/
def seqRun : Nat → State → Host.Outcome State Fault Refusal
  | 0, s => .next s
  | k + 1, s =>
    match seqStep s with
    | .next t => seqRun k t
    | .fault r => .fault r
    | .refused r => .refused r

/-- The number of chunks of the payload, `N / busWidth` (42_sequencer.md R104). -/
def State.chunks (s : State) : Nat := s.n.toNat / s.busWidth.toNat

/-! ## Levels and directions -/

/-- The latch level of a named signal (10_state.md R24). -/
def State.level (s : State) (g : Signal) : Bool := s.banks.outCtrl.getLsbD (rbit (s.profile.pin g))

/-- The direction bit of a named signal: 1 is output (30_encoding.md R68). -/
def State.isOutput (s : State) (g : Signal) : Bool := s.banks.dirCtrl.getLsbD (rbit (s.profile.pin g))

/-- The pin is one of the data bus (10_state.md R27). -/
def onBus (p : Profile) (j : BitVec 5) : Bool :=
  decide (p.dataStartBit.toNat ≤ j.toNat) && decide (j.toNat < p.dataStartBit.toNat + p.dataWidthBits.toNat)

/-- The directions SETUP configures: the four outputs, the two inputs, and the data bus (42_sequencer.md R97). -/
structure State.DirectionsSet (s : State) : Prop where
  outputs : ∀ g, g = .program ∨ g = .csi ∨ g = .rdwr ∨ g = .clock → s.isOutput g = true
  inputs : ∀ g, g = .init ∨ g = .done → s.isOutput g = false
  bus : ∀ j, onBus s.profile j = true → s.banks.dirData.getLsbD (rbit j) = true

/-- The sequencer waits for INIT, or is about to frame: after the RESET step (30_encoding.md R67). -/
def State.afterReset (s : State) : Bool := s.st == stWaitInit || (s.st == stShifting && !s.ph)

/-- The sequencer shifts, waits for DONE or completes: after the framing (30_encoding.md R67). -/
def State.afterFraming (s : State) : Bool :=
  (s.st == stShifting && s.ph) || s.st == stWaitDone || s.st == stCompleting

/-- The levels of the four outputs in the states of an attempt (30_encoding.md R67). -/
structure State.LevelsByState (s : State) : Prop where
  program : s.afterReset = true ∨ s.afterFraming = true → s.level .program = true
  clock : s.afterReset = true ∨ s.afterFraming = true → s.level .clock = true
  high : s.afterReset = true → s.level .csi = true ∧ s.level .rdwr = true
  low : s.afterFraming = true → s.level .csi = false ∧ s.level .rdwr = false

/-! ## The trace read back -/

/-- What a read of a data register returns agrees with the latch on every output bit (10_state.md R17). -/
def ReadsBack (dir latch value : Word) : Prop := value &&& dir = latch &&& dir

/-- The bank register at a bus address, if one is (20_memory.md R42, R47). -/
def State.locate (s : State) (a : Nat) : Option (Bank × Reg) :=
  if a = s.addr .ctrl .dir then some (.ctrl, .dir)
  else if a = s.addr .ctrl .dat then some (.ctrl, .dat)
  else if a = s.addr .data .dir then some (.data, .dir)
  else if a = s.addr .data .dat then some (.data, .dat)
  else none

/-- The banks after one trace entry, by the register rules alone (10_state.md R16 to R18): a write sets the register, a
read changes nothing and returns the direction register, or the latch on every output bit. None for an entry those rules
exclude. -/
def replayEntry (s : State) (k : Banks) : Entry → Option Banks
  | .write a v =>
    match s.locate a with
    | some (b, r) => some (k.write b r v)
    | none => none
  | .read a v =>
    match s.locate a with
    | some (b, .dir) => if v = k.dir b then some k else none
    | some (b, .dat) => if v &&& k.dir b = k.out b &&& k.dir b then some k else none
    | none => none

/-- The banks after a list of trace entries. -/
def replay (s : State) : Banks → List Entry → Option Banks
  | k, [] => some k
  | k, e :: es =>
    match replayEntry s k e with
    | some k' => replay s k' es
    | none => none

/-! ## The words of CMD.CONFIG, as the rules state the check -/

/-- The conditions of 00_scope.md R9 and 43_host_commands.md R119 on the extension words, each as the rule words it:
bit fields of `PINW` and `GEOW` by their place, addresses by their sums. -/
structure ConfigOk (q : Params) (pinw geow : Word) (ctrlBase dataBase : Nat) : Prop where
  width : geow.extractLsb' 8 5 = 8#5 ∨ geow.extractLsb' 8 5 = 16#5
  bus : (geow.extractLsb' 0 5).toNat + (geow.extractLsb' 8 5).toNat - 1 < 32
  pins : ∀ i j, i < 6 → j < 6 → i ≠ j → pinw.extractLsb' (5 * i) 5 ≠ pinw.extractLsb' (5 * j) 5
  pinwReserved : pinw.getLsbD 30 = false ∧ pinw.getLsbD 31 = false
  geowReserved : ∀ k, k = 5 ∨ k = 6 ∨ k = 7 ∨ (13 ≤ k ∧ k < 32) → geow.getLsbD k = false
  baseAligned : ctrlBase % 4 = 0 ∧ dataBase % 4 = 0
  noWrap : ctrlBase + q.dirOff < 2 ^ q.addrWidth ∧ ctrlBase + q.dataOff < 2 ^ q.addrWidth ∧
    dataBase + q.dirOff < 2 ^ q.addrWidth ∧ dataBase + q.dataOff < 2 ^ q.addrWidth
  aligned : (ctrlBase + q.dirOff) % 4 = 0 ∧ (ctrlBase + q.dataOff) % 4 = 0 ∧
    (dataBase + q.dirOff) % 4 = 0 ∧ (dataBase + q.dataOff) % 4 = 0
  distinct : q.dirOff ≠ q.dataOff ∧ ctrlBase ≠ dataBase ∧
    ctrlBase + q.dirOff ≠ dataBase + q.dataOff ∧ ctrlBase + q.dataOff ≠ dataBase + q.dirOff

/-! ## Held operations and runs -/

/-- The held operation, by its place, that the next step accepts (43_host_commands.md R117). -/
def State.accepts (s : State) : Option Nat :=
  match s.nextMove with
  | .release k => if s.busy || s.held.isEmpty then none else some (k % s.held.length)
  | .host _ | .seq | .run _ | .inject _ _ => none

/-- The `j`-th held operation is accepted within `n` steps, or the machine stops before (log 12). Operations held later
stand behind it, and one accepted before it moves it up. -/
def AcceptedWithin : Nat → State → Nat → Prop
  | 0, _, _ => False
  | n + 1, s, j =>
    s.accepts = some j ∨
      match step s with
      | .next t => AcceptedWithin n t (if s.accepts.any (· < j) then j - 1 else j)
      | .fault _ => True
      | .refused _ => True

/-- The operations of HOST `k` that the block has taken from its stream and that the HOST's run has not dealt with: the
answered ones in its inbox, and the held ones. -/
def State.underWay (s : State) (k : Nat) (h : HostAgent) : List Instr :=
  h.inbox.map Response.op ++ (s.held.filter (fun o => o.host == k)).map HeldOp.instr

/-- The run `r` of HOST `k` reads its own responses: beside the one operation it waits for, and before that one is issued,
its HOST has none in its stream, none held and no response unread (60_exceptions.md R145, R146; log 32). -/
def State.InStep (s : State) (k : Nat) (h : HostAgent) (r : HostRun) : Prop :=
  (h.stream = [] ∧ h.pays = [] ∧ (s.underWay k h = [] ∨ ∃ i, s.underWay k h = [i] ∧ r.awaits i = true)) ∨
  (s.underWay k h = [] ∧ ∃ i, decodeStream s.params.addrWidth h.stream h.pays = .op i [] [] ∧ r.awaits i = true)

/-- Every run that has begun is in step; one that has not finished holds the whole-`run` session lock, so that no two runs
are under way at once (60_exceptions.md R150); and one of the reset sentinel makes no attempt on an image (R145). -/
def State.RunsInStep (s : State) : Prop :=
  ∀ k h r, s.hosts[k]? = some h → h.run = some r → r.phase ≠ .waitLock →
    s.InStep k h r ∧ (r.finished = false → s.runLock = some k) ∧
      (isResetSentinel r.imageSource = true → r.phase ≠ .nextAttempt)

/-! ## The invariant -/

/-- The invariant of the machine. It holds after power-on with well-formed parameters, and every step keeps it. -/
structure State.Inv (s : State) : Prop where
  /-- The offsets are aligned and distinct (20_memory.md R44). -/
  params : s.params.wellFormed = true
  /-- No reserved selector has been reached (60_exceptions.md R132). -/
  noFault : s.fault = false
  selector : (decodeSelector s.selector).isSome = true
  /-- `CFGV` says that a well-formed profile is loaded (10_state.md R29). -/
  profile : s.cfgv = true → s.profile.wellFormed s.params = true
  configured : s.busy = true → s.cfgv = true
  /-- `N` is the payload's length (10_state.md R30). -/
  length : s.n.toNat = s.pay.length
  /-- A two-byte attempt has a two-lane bus and an even payload (43_host_commands.md R121). -/
  twoBytes : s.busy = true → s.ro = false → s.w = true →
    s.profile.dataWidthBits = 16#5 ∧ s.pay.length % 2 = 0
  /-- Reset-only attempts end after RESET (42_sequencer.md R99). -/
  full : s.afterReset = true ∨ s.afterFraming = true → s.ro = false
  /-- `IDX` is at most `N`, and below it while a chunk is due (10_state.md R36, 42_sequencer.md R103). -/
  idxBound : s.idx.toNat ≤ s.n.toNat
  framing : s.st = stShifting → s.ph = false → s.idx = 0#32
  chunkDue : s.st = stShifting → s.ph = true →
    s.idx.toNat < s.n.toNat ∧ (s.w = true → s.idx.toNat % 2 = 0)
  /-- All payload has been consumed once the shift is over (42_sequencer.md R103, R104). -/
  shifted : s.st = stWaitDone ∨ s.st = stCompleting → s.idx = s.n
  /-- The wait counters stay below their bounds while waiting (10_state.md R35). -/
  initPolls : s.st = stWaitInit → s.poll.toNat < s.iwb.toNat
  donePolls : s.st = stWaitDone → s.ph = true → s.poll.toNat < s.dwb.toNat
  /-- At most 8 startup pulses (10_state.md R37). -/
  startup : s.scnt.toNat ≤ Config.startupClocks.toNat
  startupDue : s.st = stCompleting → s.scnt.toNat < Config.startupClocks.toNat
  /-- `REASON` names a failure exactly in FAILED (10_state.md R34). -/
  reason : s.st = stFailed ↔ s.reason ≠ .none
  /-- The directions of SETUP hold for the rest of the attempt (42_sequencer.md R97). -/
  directions : s.busy = true → s.st ≠ stSetup → s.DirectionsSet
  /-- The levels of 30_encoding.md R67. -/
  levels : s.LevelsByState
  /-- Only operations of HOST are held, and never CMD.STATUS (43_host_commands.md R117). -/
  heldOps : ∀ h ∈ s.held, hostOperation h.instr = true ∧ h.instr ≠ .cmdStatus

end Sys2Proof.Machine
end

