-- ==== Sys2Proof/Certificates/Slice0/Obligations.lean ====
section
/-! DEFINITION. The statements for the provers, from the numbered rules of the spec. `cited by its rule` below means the
rule whose number stands in the docstring; a statement that rests on a choice of the model says so. -/

open Sys2Proof Sys2Proof.Machine

/-! ## Encodings and operand forms -/

/-- The encoder and the decoder agree on every well-formed instruction, whatever follows it in the stream
(30_encoding.md R69 to R76). -/
def Obligations.DecodeOfEncodeIsTheInstruction : Prop :=
  ∀ (aw : Nat) (i : Instr) (rest : List Word) (more : List (List Byte)), i.wf aw = true →
    match encode aw i with
    | .stream ws ps => decodeStream aw (ws ++ rest) (ps ++ more) = .op i rest more
    | .selector sel => decodeSelector sel = some i

/-- Every operation the decoder reads is the one its words encode: no bit is dropped, and no two words of a stream or
selectors mean the same (30_encoding.md R69 to R76). -/
def Obligations.DecodedWordsAreTheEncoding : Prop :=
  (∀ (aw : Nat) (ws rest : List Word) (pays more : List (List Byte)) (i : Instr),
    decodeStream aw ws pays = .op i rest more →
      encode aw i = .stream (encode aw i).words (encode aw i).pays ∧
      ws = (encode aw i).words ++ rest ∧ pays = (encode aw i).pays ++ more) ∧
  (∀ (aw : Nat) (sel : BitVec 5) (i : Instr), decodeSelector sel = some i → encode aw i = .selector sel)

/-- Words written out from 30_encoding.md R69 to R76 decode to what they stand for. -/
def Obligations.SampleWordsDecode : Prop :=
  decodeStream 32 [0x0200AB08#32] [] = .op (.splice 8#5 0xAB#8) [] [] ∧
  decodeStream 32 [0x035F0000#32] [] = .op (.setbit .ctrl true 31#5) [] [] ∧
  decodeStream 32 [0x03850000#32] [] = .op (.setbit .data false 5#5) [] [] ∧
  decodeStream 32 [0x06800000#32, 0x00FFFF00#32, 0#32] [] = .op (.setdir .data 0x00FFFF00#32 0#32) [] [] ∧
  decodeStream 32 [0x07A00000#32] [] = .op (.rdreg .data .dat) [] [] ∧
  decodeStream 32 [0x11400000#32] [[0xAA#8, 0x55#8]] = .op (.cmdProgram true [0xAA#8, 0x55#8]) [] [] ∧
  decodeStream 32 [0x10000000#32, 0x00996FEC#32, 0x00001008#32, 0x10000000#32, 0x10000100#32, 5#32, 5#32] [] =
    .op (.cmdConfig 0x00996FEC#32 0x00001008#32 0x10000000 0x10000100 5#32 5#32) [] [] ∧
  decodeSelector 0x14#5 = some .stepShiftChunk ∧ decodeSelector 0x15#5 = some .stepPollDone ∧
  decodeSelector 0x11#5 = none

/-- 30_encoding.md R73, the three kinds of illegal word: an unassigned `OP`, a bit set outside the fields the `OP` uses,
a SPLICE with `O > 24`; and no other word is illegal. -/
def Obligations.IllegalWordsAreExactlyThese : Prop :=
  ∀ (aw : Nat) (w : Word) (rest : List Word) (pays : List (List Byte)),
    let op := (w.extractLsb' 24 8).toNat
    let fields : Word :=
      if op = 0x02 then 0x0000FF1F#32 else if op = 0x03 then 0x00DF0000#32
      else if op = 0x04 ∨ op = 0x05 then 0x009F0000#32 else if op = 0x06 then 0x00800000#32
      else if op = 0x07 ∨ op = 0x08 then 0x00A00000#32 else if op = 0x11 then 0x00400000#32 else 0#32
    (∃ e, decodeStream aw (w :: rest) pays = .illegal e) ↔
      (op = 0x00 ∨ (0x0A ≤ op ∧ op ≤ 0x0F) ∨ 0x14 ≤ op) ∨
      w.extractLsb' 0 24 &&& ~~~(fields.extractLsb' 0 24) ≠ 0#24 ∨
      (op = 0x02 ∧ 24 < (w.extractLsb' 0 5).toNat)

/-- 20_memory.md R52 and 30_encoding.md R61, R62: pin `i` is raw bit `8 * (i div 8) + 7 - (i mod 8)`, and the raw mask is
the byte-swapped logical mask; the masks of SETUP, pin by pin, for a well-formed profile. -/
def Obligations.PinsMasksAndRawBits : Prop :=
  (∀ i : BitVec 5, lmask i = 1#32 <<< (31 - i.toNat) ∧
    bswap32 (lmask i) = 1#32 <<< (8 * (i.toNat / 8) + 7 - i.toNat % 8) ∧
    ∀ raw : Word, (bswap32 raw).getLsbD (31 - i.toNat) = raw.getLsbD (8 * (i.toNat / 8) + 7 - i.toNat % 8)) ∧
  (∀ (q : Params) (p : Profile) (i : BitVec 5), p.wellFormed q = true →
    p.ctrlOut.getLsbD (31 - i.toNat) = decide (i = p.pinProgram ∨ i = p.pinCsi ∨ i = p.pinRdwr ∨ i = p.pinClock) ∧
    p.ctrlIn.getLsbD (31 - i.toNat) = decide (i = p.pinInit ∨ i = p.pinDone) ∧
    p.dataOut.getLsbD (31 - i.toNat) = decide (p.dataStartBit.toNat ≤ i.toNat ∧
      i.toNat ≤ p.dataStartBit.toNat + p.dataWidthBits.toNat - 1))

/-- 41_port_primitives.md R93: the five laws of splice. -/
def Obligations.SpliceLaws : Prop :=
  ∀ (w : Word) (o o2 : Nat) (y y2 : Byte), o ≤ 24 → o2 ≤ 24 →
    (splice w o y >>> (24 - o)) &&& 0xFF#32 = y.setWidth 32 ∧
    splice w o y &&& ~~~(0xFF#32 <<< (24 - o)) = w &&& ~~~(0xFF#32 <<< (24 - o)) ∧
    splice (splice w o y) o y = splice w o y ∧
    splice (splice w o y) o y2 = splice w o y2 ∧
    (o + 8 ≤ o2 ∨ o2 + 8 ≤ o → splice (splice w o y) o2 y2 = splice (splice w o2 y2) o y)

/-! ## Port operations -/

/-- 41_port_primitives.md R83: BSWAP reverses the bytes of the working word, returns it, changes nothing else, and
undoes itself. -/
def Obligations.BswapReversesTheWorkingWord : Prop :=
  ∀ (aw : Nat) (s : State),
    (∀ rest pays, decodeStream aw (0x01000000#32 :: rest) pays = .op .bswap rest pays) ∧
    ∃ t, exec .bswap s = .next t ∧
      (∀ k, k < 4 → t.ww.extractLsb' (8 * k) 8 = s.ww.extractLsb' (24 - 8 * k) 8) ∧
      t.resp = some t.ww ∧ t = { s with ww := t.ww, resp := t.resp } ∧
      ∀ u, exec .bswap t = .next u → u.ww = s.ww

/-- 41_port_primitives.md R84: SPLICE puts the byte in the eight pins from `O` on, its bit 7 first, and keeps all other
bits; an offset above 24 is refused. -/
def Obligations.SpliceOverwritesOneField : Prop :=
  ∀ (aw : Nat) (s : State) (o : BitVec 5) (y : Byte),
    (o.toNat ≤ 24 →
      (∀ rest pays, decodeStream aw ((0x02000000#32 ||| (y.setWidth 32 <<< 8) ||| o.setWidth 32) :: rest) pays =
        .op (.splice o y) rest pays) ∧
      ∃ t, exec (.splice o y) s = .next t ∧
        (∀ j : BitVec 5, t.ww.getLsbD (31 - j.toNat) =
          if o.toNat ≤ j.toNat ∧ j.toNat < o.toNat + 8 then y.getLsbD (7 - (j.toNat - o.toNat))
          else s.ww.getLsbD (31 - j.toNat)) ∧
        t.resp = some t.ww ∧ t = { s with ww := t.ww, resp := t.resp }) ∧
    (24 < o.toNat → exec (.splice o y) s = .next (s.refuse .illegalEncoding))

/-- 41_port_primitives.md R85: LDW loads the working word from its extension word. -/
def Obligations.LdwLoadsTheExtensionWord : Prop :=
  ∀ (aw : Nat) (s : State) (imm : Word),
    (∀ rest pays, decodeStream aw (0x09000000#32 :: imm :: rest) pays = .op (.ldw imm) rest pays) ∧
    exec (.ldw imm) s = .next { s with ww := imm, resp := some imm }

/-- 41_port_primitives.md R86 with 10_state.md R17 and 20_memory.md R47, R60: what RDREG reads, where, and what it
leaves alone; with no profile it is refused. -/
def Obligations.RdregReadsTheRegister : Prop :=
  ∀ (s : State) (b : Bank) (r : Reg),
    (∀ (aw : Nat) (rest : List Word) (pays : List (List Byte)),
      decodeStream aw ((0x07000000#32 ||| (if b = .data then 0x00800000#32 else 0#32) |||
        (if r = .dat then 0x00200000#32 else 0#32)) :: rest) pays =
        .op (.rdreg b r) rest pays) ∧
    (s.cfgv = false → exec (.rdreg b r) s = .next (s.refuse .noProfile)) ∧
    (s.cfgv = true → ∃ t, exec (.rdreg b r) s = .next t ∧ t.resp = some t.ww ∧
      t.trace = s.trace ++ [.read (((match b with | .ctrl => s.profile.ctrlBase | .data => s.profile.dataBase) +
        (match r with | .dir => s.params.dirOff | .dat => s.params.dataOff)) % 2 ^ s.params.addrWidth) t.ww] ∧
      (r = .dir → t.ww = s.banks.dir b ∧ t.env = s.env) ∧
      (r = .dat → s.env.backend = .real →
        t.ww = (s.banks.out b &&& s.banks.dir b) ||| (s.env.pins &&& ~~~(s.banks.dir b)) ∧ t.env = s.env.afterDraw) ∧
      (r = .dat → s.env.backend = .simulated → t.ww = s.banks.out b ∧ t.env = s.env) ∧
      t = { s with ww := t.ww, resp := t.resp, trace := t.trace, env := t.env })

/-- 41_port_primitives.md R87 with 10_state.md R18: WRREG writes the working word to one register of one bank, and a pin
that is now an output drives its latch; with no profile it is refused. -/
def Obligations.WrregWritesTheRegister : Prop :=
  ∀ (s : State) (b : Bank) (r : Reg),
    (∀ (aw : Nat) (rest : List Word) (pays : List (List Byte)),
      decodeStream aw ((0x08000000#32 ||| (if b = .data then 0x00800000#32 else 0#32) |||
        (if r = .dat then 0x00200000#32 else 0#32)) :: rest) pays =
        .op (.wrreg b r) rest pays) ∧
    (s.cfgv = false → exec (.wrreg b r) s = .next (s.refuse .noProfile)) ∧
    (s.cfgv = true → ∃ t, exec (.wrreg b r) s = .next t ∧ t.resp = some 0#32 ∧
      t.trace = s.trace ++ [.write (s.addr b r) s.ww] ∧
      t.banks.dir b = (if r = .dir then s.ww else s.banks.dir b) ∧
      t.banks.out b = (if r = .dat then s.ww else s.banks.out b) ∧
      (∀ c, c ≠ b → t.banks.dir c = s.banks.dir c ∧ t.banks.out c = s.banks.out c) ∧
      (∀ k ext, (t.banks.dir b).getLsbD k = true → t.banks.pinLevel b k ext = (t.banks.out b).getLsbD k) ∧
      (∀ k ext, (t.banks.dir b).getLsbD k = false → t.banks.pinLevel b k ext = ext.getLsbD k) ∧
      t = { s with banks := t.banks, resp := t.resp, trace := t.trace })

/-- 41_port_primitives.md R88: SETBIT reads the data register and writes it back with the pin's raw bit set or cleared;
every other output bit keeps its latch; with no profile it is refused. -/
def Obligations.SetbitSetsOnePin : Prop :=
  ∀ (s : State) (b : Bank) (v : Bool) (i : BitVec 5),
    (∀ (aw : Nat) (rest : List Word) (pays : List (List Byte)),
      decodeStream aw ((0x03000000#32 ||| (if b = .data then 0x00800000#32 else 0#32) |||
        (if v then 0x00400000#32 else 0#32) ||| i.setWidth 32 <<< 16) :: rest) pays =
        .op (.setbit b v i) rest pays) ∧
    (s.cfgv = false → exec (.setbit b v i) s = .next (s.refuse .noProfile)) ∧
    (s.cfgv = true →
      let raw := s.rawRead b .dat
      let mask : Word := 1#32 <<< (8 * (i.toNat / 8) + 7 - i.toNat % 8)
      let new := if v then raw ||| mask else raw &&& ~~~mask
      ∃ t, exec (.setbit b v i) s = .next t ∧ t.resp = some 0#32 ∧
        t.trace = s.trace ++ [.read (s.addr b .dat) raw, .write (s.addr b .dat) new] ∧
        t.banks.out b = new ∧ (∀ c, t.banks.dir c = s.banks.dir c) ∧ (∀ c, c ≠ b → t.banks.out c = s.banks.out c) ∧
        (∀ j, j ≠ i → (s.banks.dir b).getLsbD (rbit j) = true →
          (t.banks.out b).getLsbD (rbit j) = (s.banks.out b).getLsbD (rbit j)) ∧
        t.env = s.env.afterRead .dat ∧
        t = { s with banks := t.banks, resp := t.resp, trace := t.trace, env := t.env })

/-- 41_port_primitives.md R89: GETBIT puts the raw bit of the pin in `RV` and returns it; it writes no bank register;
with no profile it is refused. -/
def Obligations.GetbitReadsOnePin : Prop :=
  ∀ (s : State) (b : Bank) (i : BitVec 5),
    (∀ (aw : Nat) (rest : List Word) (pays : List (List Byte)),
      decodeStream aw ((0x04000000#32 ||| (if b = .data then 0x00800000#32 else 0#32) ||| i.setWidth 32 <<< 16) :: rest) pays =
        .op (.getbit b i) rest pays) ∧
    (s.cfgv = false → exec (.getbit b i) s = .next (s.refuse .noProfile)) ∧
    (s.cfgv = true →
      let raw := s.rawRead b .dat
      let x := raw.getLsbD (8 * (i.toNat / 8) + 7 - i.toNat % 8)
      exec (.getbit b i) s = .next { s with
        rv := x, resp := some (if x then 1#32 else 0#32), trace := s.trace ++ [.read (s.addr b .dat) raw],
        env := s.env.afterRead .dat })

/-- 41_port_primitives.md R90: PULSE makes one read and two writes, the pin low and then high; with no profile it is
refused. -/
def Obligations.PulseLowersThenRaisesThePin : Prop :=
  ∀ (s : State) (b : Bank) (i : BitVec 5),
    (∀ (aw : Nat) (rest : List Word) (pays : List (List Byte)),
      decodeStream aw ((0x05000000#32 ||| (if b = .data then 0x00800000#32 else 0#32) ||| i.setWidth 32 <<< 16) :: rest) pays =
        .op (.pulse b i) rest pays) ∧
    (s.cfgv = false → exec (.pulse b i) s = .next (s.refuse .noProfile)) ∧
    (s.cfgv = true →
      let raw := s.rawRead b .dat
      let mask : Word := 1#32 <<< (8 * (i.toNat / 8) + 7 - i.toNat % 8)
      ∃ t, exec (.pulse b i) s = .next t ∧ t.resp = some 0#32 ∧
        t.trace = s.trace ++ [.read (s.addr b .dat) raw, .write (s.addr b .dat) (raw &&& ~~~mask),
          .write (s.addr b .dat) (raw ||| mask)] ∧
        t.banks.out b = raw ||| mask ∧ (t.banks.out b).getLsbD (rbit i) = true ∧
        (∀ c, t.banks.dir c = s.banks.dir c) ∧ (∀ c, c ≠ b → t.banks.out c = s.banks.out c) ∧
        t.env = s.env.afterRead .dat ∧
        t = { s with banks := t.banks, resp := t.resp, trace := t.trace, env := t.env })

/-- 41_port_primitives.md R91: SETDIR releases the inputs in a first write and asserts the outputs in a second; a pin in
both masks ends as an output, a pin in neither keeps its direction; with no profile it is refused. -/
def Obligations.SetdirReleasesThenAsserts : Prop :=
  ∀ (s : State) (b : Bank) (outMask inMask : Word),
    (∀ (aw : Nat) (rest : List Word) (pays : List (List Byte)),
      decodeStream aw ((0x06000000#32 ||| (if b = .data then 0x00800000#32 else 0#32)) :: outMask :: inMask :: rest) pays =
        .op (.setdir b outMask inMask) rest pays) ∧
    (s.cfgv = false → exec (.setdir b outMask inMask) s = .next (s.refuse .noProfile)) ∧
    (s.cfgv = true →
      ∃ t released, exec (.setdir b outMask inMask) s = .next t ∧ t.resp = some 0#32 ∧
        t.trace = s.trace ++ [.read (s.addr b .dir) (s.banks.dir b), .write (s.addr b .dir) released,
          .write (s.addr b .dir) (t.banks.dir b)] ∧
        (∀ j : BitVec 5,
          released.getLsbD (rbit j) = ((s.banks.dir b).getLsbD (rbit j) && !inMask.getLsbD (31 - j.toNat)) ∧
          (t.banks.dir b).getLsbD (rbit j) = (if outMask.getLsbD (31 - j.toNat) then true
            else if inMask.getLsbD (31 - j.toNat) then false else (s.banks.dir b).getLsbD (rbit j))) ∧
        (∀ c, t.banks.out c = s.banks.out c) ∧ (∀ c, c ≠ b → t.banks.dir c = s.banks.dir c) ∧
        t = { s with banks := t.banks, resp := t.resp, trace := t.trace })

/-- 41_port_primitives.md R92: the round trip of setBit and getBit holds in the simulated backend and on an output pin;
on an input pin of the real bank getBit returns the pin level. -/
def Obligations.SetbitGetbitRoundTrip : Prop :=
  ∀ (s : State) (b : Bank) (v : Bool) (i : BitVec 5), s.cfgv = true →
    ∃ t u, exec (.setbit b v i) s = .next t ∧ exec (.getbit b i) t = .next u ∧
      (s.env.backend = .simulated ∨ (s.banks.dir b).getLsbD (rbit i) = true → u.rv = v) ∧
      (s.env.backend = .real → (s.banks.dir b).getLsbD (rbit i) = false → u.rv = t.env.pins.getLsbD (rbit i))

/-- 41_port_primitives.md R82 item 3: no port operation changes the sequencer's registers, the session, the profile,
the parameters, the agents, the backend or the schedule, whether it runs or is refused. -/
def Obligations.PortOperationsLeaveTheSequencer : Prop :=
  ∀ (i : Instr) (s t : State), portOperation i = true → exec i s = .next t →
    t = { s with banks := t.banks, ww := t.ww, rv := t.rv, trace := t.trace, env := t.env, resp := t.resp,
                 refused := t.refused, refusedFor := t.refusedFor } ∧
    t.env.backend = s.env.backend ∧ t.env.sched = s.env.sched ∧ t.env.slack = s.env.slack

/-- 60_exceptions.md R131: an operation that returns no response was refused, and a refused operation changes nothing
but the marks. `refusedFor` is the model's own field (log 8). -/
def Obligations.RefusedOperationHasNoEffect : Prop :=
  ∀ (i : Instr) (s t : State), hostOperation i = true → exec i s = .next t → t.resp = none →
    t = { s with refused := true, refusedFor := t.refusedFor, resp := none } ∧ t.refusedFor ≠ none

/-! ## The sequencer -/

/-- 42_sequencer.md R97: SETUP makes the four control outputs outputs, INIT and DONE inputs and the bus bits outputs,
keeps every other direction and all latches, in six transactions, inputs released first. -/
def Obligations.SetupConfiguresTheDirections : Prop :=
  decodeSelector 0x01#5 = some .stepSetup ∧
  ∀ s : State, s.profile.wellFormed s.params = true →
    let p := s.profile
    ∃ t c1 d1, exec .stepSetup s = .next t ∧
      (∀ j : BitVec 5, c1.getLsbD (rbit j) =
        (if j = p.pinInit ∨ j = p.pinDone then false else s.banks.dirCtrl.getLsbD (rbit j))) ∧
      (∀ j : BitVec 5, t.banks.dirCtrl.getLsbD (rbit j) =
        (if j = p.pinProgram ∨ j = p.pinCsi ∨ j = p.pinRdwr ∨ j = p.pinClock then true
         else if j = p.pinInit ∨ j = p.pinDone then false else s.banks.dirCtrl.getLsbD (rbit j))) ∧
      d1 = s.banks.dirData ∧
      (∀ j : BitVec 5, t.banks.dirData.getLsbD (rbit j) =
        (if p.dataStartBit.toNat ≤ j.toNat ∧ j.toNat < p.dataStartBit.toNat + p.dataWidthBits.toNat then true
         else s.banks.dirData.getLsbD (rbit j))) ∧
      t.trace = s.trace ++ [.read (s.addr .ctrl .dir) s.banks.dirCtrl, .write (s.addr .ctrl .dir) c1,
        .write (s.addr .ctrl .dir) t.banks.dirCtrl, .read (s.addr .data .dir) s.banks.dirData,
        .write (s.addr .data .dir) d1, .write (s.addr .data .dir) t.banks.dirData] ∧
      t.banks.outCtrl = s.banks.outCtrl ∧ t.banks.outData = s.banks.outData ∧
      t.ph = false ∧ t.st = stReset ∧
      t = { s with banks := t.banks, trace := t.trace, ph := t.ph, st := t.st }

/-- 42_sequencer.md R98, R99, R100: RESET drives CSI, RDWR, PROGRAM and CLOCK to 1 in this order, pulses PROGRAM, and
leaves to DONE, to FAILED(InitTimeout) on a zero bound, or to WAIT_INIT. -/
def Obligations.ResetDrivesThePatternAndPulses : Prop :=
  decodeSelector 0x02#5 = some .stepReset ∧
  ∀ s : State,
    let p := s.profile
    let a := s.addr .ctrl .dat
    let d := s.banks.dirCtrl
    ∃ (t : State) (r1 r2 r3 r4 r5 : Word), exec .stepReset s = .next t ∧
      ReadsBack d s.banks.outCtrl r1 ∧ ReadsBack d (r1 ||| rmask p.pinCsi) r2 ∧
      ReadsBack d (r2 ||| rmask p.pinRdwr) r3 ∧ ReadsBack d (r3 ||| rmask p.pinProgram) r4 ∧
      ReadsBack d (r4 ||| rmask p.pinClock) r5 ∧
      t.trace = s.trace ++ [.read a r1, .write a (r1 ||| rmask p.pinCsi), .read a r2,
        .write a (r2 ||| rmask p.pinRdwr), .read a r3, .write a (r3 ||| rmask p.pinProgram), .read a r4,
        .write a (r4 ||| rmask p.pinClock), .read a r5, .write a (r5 &&& ~~~(rmask p.pinProgram)),
        .write a (r5 ||| rmask p.pinProgram)] ∧
      t.banks = { s.banks with outCtrl := r5 ||| rmask p.pinProgram } ∧
      (s.ro = true → t.st = stDone ∧ t.reason = .none ∧ t.ph = s.ph ∧ t.poll = s.poll) ∧
      (s.ro = false → s.iwb = 0#32 → t.st = stFailed ∧ t.reason = .initTimeout ∧ t.ph = false ∧ t.poll = 0#32) ∧
      (s.ro = false → s.iwb ≠ 0#32 → t.st = stWaitInit ∧ t.reason = s.reason ∧ t.ph = s.ph ∧ t.poll = 0#32) ∧
      t = { s with banks := t.banks, trace := t.trace, env := t.env, st := t.st, reason := t.reason, ph := t.ph,
                   poll := t.poll }

/-- 42_sequencer.md R101: one poll of INIT: one read, one count; a 1 leads to SHIFTING even on the last permitted poll,
the `IWB`-th 0 to FAILED(InitTimeout), any other 0 leaves the state; `POLL` does not pass `IWB`. -/
def Obligations.WaitInitPollsOnce : Prop :=
  decodeSelector 0x03#5 = some .stepWaitInit ∧
  ∀ s : State,
    let raw := s.rawRead .ctrl .dat
    let x := raw.getLsbD (rbit s.profile.pinInit)
    let u : State := { s with
      poll := s.poll + 1#32, trace := s.trace ++ [.read (s.addr .ctrl .dat) raw], env := s.env.afterRead .dat }
    (x = true → exec .stepWaitInit s = .next { u with idx := 0#32, ph := false, st := stShifting }) ∧
    (x = false → s.poll + 1#32 = s.iwb →
      exec .stepWaitInit s = .next { u with reason := .initTimeout, ph := false, st := stFailed }) ∧
    (x = false → s.poll + 1#32 ≠ s.iwb → exec .stepWaitInit s = .next u) ∧
    (s.poll.toNat < s.iwb.toNat → u.poll.toNat ≤ s.iwb.toNat)

/-- 42_sequencer.md R102: the framing lowers RDWR and then CSI, each between CLOCK low and CLOCK high, in twelve
transactions; with nothing to shift WAIT_DONE is next, else the chunks. -/
def Obligations.FramingLowersRdwrThenCsi : Prop :=
  decodeSelector 0x04#5 = some .stepShiftFrame ∧
  ∀ s : State,
    let p := s.profile
    let a := s.addr .ctrl .dat
    let d := s.banks.dirCtrl
    ∃ (t : State) (r1 r2 r3 r4 r5 r6 : Word), exec .stepShiftFrame s = .next t ∧
      ReadsBack d s.banks.outCtrl r1 ∧ ReadsBack d (r1 &&& ~~~(rmask p.pinClock)) r2 ∧
      ReadsBack d (r2 &&& ~~~(rmask p.pinRdwr)) r3 ∧ ReadsBack d (r3 ||| rmask p.pinClock) r4 ∧
      ReadsBack d (r4 &&& ~~~(rmask p.pinClock)) r5 ∧ ReadsBack d (r5 &&& ~~~(rmask p.pinCsi)) r6 ∧
      t.trace = s.trace ++ [.read a r1, .write a (r1 &&& ~~~(rmask p.pinClock)), .read a r2,
        .write a (r2 &&& ~~~(rmask p.pinRdwr)), .read a r3, .write a (r3 ||| rmask p.pinClock), .read a r4,
        .write a (r4 &&& ~~~(rmask p.pinClock)), .read a r5, .write a (r5 &&& ~~~(rmask p.pinCsi)), .read a r6,
        .write a (r6 ||| rmask p.pinClock)] ∧
      t.banks = { s.banks with outCtrl := r6 ||| rmask p.pinClock } ∧
      (s.n = 0#32 → t.ph = false ∧ t.st = stWaitDone) ∧ (s.n ≠ 0#32 → t.ph = true ∧ t.st = s.st) ∧
      t = { s with banks := t.banks, trace := t.trace, env := t.env, ph := t.ph, st := t.st }

/-- 42_sequencer.md R103 with 30_encoding.md R65, R66: a chunk step puts the chunk's bytes on the lanes, keeps every
other pin of the data bank as read, then pulses CLOCK, and moves `IDX` on; after the last chunk WAIT_DONE is next. It
completes in every state; with two bytes a chunk, in an attempt, both are in the payload. The bytes are stated where the
payload has them; that the step completes beyond the payload's end too, on free values, is the model's choice
(log 11). -/
def Obligations.ChunkGoesToItsLanes : Prop :=
  decodeSelector 0x14#5 = some .stepShiftChunk ∧
  ∀ s : State,
    let p := s.profile
    let w := if s.w then 2 else 1
    let up := p.dataStartBit.toNat
    let lo := p.dataStartBit.toNat + p.dataWidthBits.toNat - 8
    let raw := s.rawRead .data .dat
    let a := s.addr .data .dat
    let c := s.addr .ctrl .dat
    let clock := rmask p.pinClock
    ∃ (t : State) (new r : Word), exec .stepShiftChunk s = .next t ∧
      t.trace = s.trace ++ [.read a raw, .write a new, .read c r, .write c (r &&& ~~~clock),
        .write c (r ||| clock)] ∧
      ReadsBack s.banks.dirCtrl s.banks.outCtrl r ∧
      t.banks = { s.banks with outData := new, outCtrl := r ||| clock } ∧
      (p.wellFormed s.params = true → (s.w = true → p.dataWidthBits = 16#5) → s.idx.toNat + w ≤ s.pay.length →
        ∀ j : BitVec 5, (bswap32 new).getLsbD (31 - j.toNat) =
          if s.w = true ∧ up ≤ j.toNat ∧ j.toNat < up + 8 then
            ((s.pay[s.idx.toNat]?).getD 0#8).getLsbD (7 - (j.toNat - up))
          else if lo ≤ j.toNat ∧ j.toNat < lo + 8 then
            ((s.pay[s.idx.toNat + w - 1]?).getD 0#8).getLsbD (7 - (j.toNat - lo))
          else (bswap32 raw).getLsbD (31 - j.toNat)) ∧
      t.idx = s.idx + BitVec.ofNat 32 w ∧
      (t.idx = s.n → t.ph = false ∧ t.st = stWaitDone) ∧ (t.idx ≠ s.n → t.ph = s.ph ∧ t.st = s.st) ∧
      (s.Inv → s.st = stShifting → s.ph = true → s.w = true → s.idx.toNat + 1 < s.n.toNat) ∧
      t = { s with banks := t.banks, trace := t.trace, env := t.env, idx := t.idx, ph := t.ph, st := t.st }

/-- 42_sequencer.md R105: the re-check reads INIT once; a 0 is ProgrammingRejected, before any look at `DWB`; else a
zero bound is DoneTimeout; else the DONE polls begin with `POLL = 0`. -/
def Obligations.CheckInitOnceAfterTheShift : Prop :=
  decodeSelector 0x05#5 = some .stepCheckInit ∧
  ∀ s : State,
    let raw := s.rawRead .ctrl .dat
    let x := raw.getLsbD (rbit s.profile.pinInit)
    let u : State := { s with
      trace := s.trace ++ [.read (s.addr .ctrl .dat) raw], env := s.env.afterRead .dat }
    (x = false →
      exec .stepCheckInit s = .next { u with reason := .programmingRejected, ph := false, st := stFailed }) ∧
    (x = true → s.dwb = 0#32 →
      exec .stepCheckInit s = .next { u with poll := 0#32, reason := .doneTimeout, ph := false, st := stFailed }) ∧
    (x = true → s.dwb ≠ 0#32 → exec .stepCheckInit s = .next { u with poll := 0#32, ph := true })

/-- 42_sequencer.md R107: one poll of DONE: one read, one count; a 1 leads to COMPLETING even on the last permitted
poll, the `DWB`-th 0 to FAILED(DoneTimeout), any other 0 leaves the state. -/
def Obligations.PollDoneOnce : Prop :=
  decodeSelector 0x15#5 = some .stepPollDone ∧
  ∀ s : State,
    let raw := s.rawRead .ctrl .dat
    let x := raw.getLsbD (rbit s.profile.pinDone)
    let u : State := { s with
      poll := s.poll + 1#32, trace := s.trace ++ [.read (s.addr .ctrl .dat) raw], env := s.env.afterRead .dat }
    (x = true → exec .stepPollDone s = .next { u with scnt := 0#4, ph := false, st := stCompleting }) ∧
    (x = false → s.poll + 1#32 = s.dwb →
      exec .stepPollDone s = .next { u with reason := .doneTimeout, ph := false, st := stFailed }) ∧
    (x = false → s.poll + 1#32 ≠ s.dwb → exec .stepPollDone s = .next u)

/-- 42_sequencer.md R108: COMPLETING makes one CLOCK pulse a step, touches no other output, and is done at 8. -/
def Obligations.CompletingPulsesTheClock : Prop :=
  decodeSelector 0x06#5 = some .stepCompleting ∧
  ∀ s : State,
    let a := s.addr .ctrl .dat
    let m := rmask s.profile.pinClock
    ∃ (t : State) (r : Word), exec .stepCompleting s = .next t ∧ ReadsBack s.banks.dirCtrl s.banks.outCtrl r ∧
      t.trace = s.trace ++ [.read a r, .write a (r &&& ~~~m), .write a (r ||| m)] ∧
      t.banks = { s.banks with outCtrl := r ||| m } ∧ t.scnt = s.scnt + 1#4 ∧
      (t.scnt = 8#4 → t.st = stDone ∧ t.reason = .none) ∧
      (t.scnt ≠ 8#4 → t.st = s.st ∧ t.reason = s.reason) ∧
      t = { s with banks := t.banks, trace := t.trace, env := t.env, scnt := t.scnt, st := t.st, reason := t.reason }

/-- 42_sequencer.md R96, R109, R110: IDLE, DONE and FAILED have no step: the state is unchanged. That this is a next
state and not a stop is the model's choice (log 10). -/
def Obligations.IdleDoneFailedTakeNoStep : Prop :=
  ∀ s : State, exec .stepIdle s = .next s ∧ exec .stepDone s = .next s ∧ exec .stepFailed s = .next s

/-- 42_sequencer.md R95: the transition table, row by row, over the states that meet the invariant; a busy sequencer always
has a step, which completes (R94). -/
def Obligations.TransitionTable : Prop :=
  (∀ s : State, s.Inv → s.busy = true → ∃ t, seqStep s = .next t ∧
    let x (g : Signal) := (s.rawRead .ctrl .dat).getLsbD (rbit (s.profile.pin g))
    (s.st = stSetup → t.st = stReset) ∧
    (s.st = stReset → s.ro = true → t.st = stDone) ∧
    (s.st = stReset → s.ro = false → s.iwb = 0#32 → t.st = stFailed ∧ t.reason = .initTimeout) ∧
    (s.st = stReset → s.ro = false → 0 < s.iwb.toNat → t.st = stWaitInit) ∧
    (s.st = stWaitInit → x .init = true → t.st = stShifting ∧ t.ph = false) ∧
    (s.st = stWaitInit → x .init = false → t.poll = s.iwb → t.st = stFailed ∧ t.reason = .initTimeout) ∧
    (s.st = stWaitInit → x .init = false → t.poll ≠ s.iwb → t.poll.toNat < s.iwb.toNat ∧ t.st = stWaitInit) ∧
    (s.st = stShifting → s.ph = false → s.n = 0#32 → t.st = stWaitDone ∧ t.ph = false) ∧
    (s.st = stShifting → s.ph = false → 0 < s.n.toNat → t.st = stShifting ∧ t.ph = true) ∧
    (s.st = stShifting → s.ph = true → t.idx = s.n → t.st = stWaitDone ∧ t.ph = false) ∧
    (s.st = stShifting → s.ph = true → t.idx ≠ s.n →
      t.idx.toNat < s.n.toNat ∧ t.st = stShifting ∧ t.ph = true) ∧
    (s.st = stWaitDone → s.ph = false → x .init = false → t.st = stFailed ∧ t.reason = .programmingRejected) ∧
    (s.st = stWaitDone → s.ph = false → x .init = true → s.dwb = 0#32 → t.st = stFailed ∧ t.reason = .doneTimeout) ∧
    (s.st = stWaitDone → s.ph = false → x .init = true → 0 < s.dwb.toNat → t.st = stWaitDone ∧ t.ph = true) ∧
    (s.st = stWaitDone → s.ph = true → x .done = true → t.st = stCompleting) ∧
    (s.st = stWaitDone → s.ph = true → x .done = false → t.poll = s.dwb → t.st = stFailed ∧ t.reason = .doneTimeout) ∧
    (s.st = stWaitDone → s.ph = true → x .done = false → t.poll ≠ s.dwb →
      t.poll.toNat < s.dwb.toNat ∧ t.st = stWaitDone ∧ t.ph = true) ∧
    (s.st = stCompleting → t.scnt = 8#4 → t.st = stDone) ∧
    (s.st = stCompleting → t.scnt ≠ 8#4 → t.scnt.toNat < 8 ∧ t.st = stCompleting)) ∧
  (∀ (s t : State) (v : Bool) (pay : List Byte),
    exec (.cmdProgram v pay) s = .next t → t.resp ≠ none → t.st = stSetup ∧ t.ro = false) ∧
  (∀ s t : State, exec .cmdResetOnly s = .next t → t.resp ≠ none → t.st = stSetup ∧ t.ro = true)

/-- 10_state.md R39 and 43_host_commands.md R125: no sequencer step changes `WW`, `RV`, the profile, the bounds, the
session, the interface or the agents; what it may change is named. -/
def Obligations.SequencerStepFrame : Prop :=
  ∀ (i : Instr) (s t : State), hostOperation i = false → exec i s = .next t →
    t = { s with banks := t.banks, st := t.st, ph := t.ph, reason := t.reason, poll := t.poll, idx := t.idx,
                 scnt := t.scnt, trace := t.trace, env := t.env } ∧
    t.env.backend = s.env.backend ∧ t.env.sched = s.env.sched ∧ t.env.slack = s.env.slack

/-- 10_state.md R28: no sequencer step changes a foreign bit's direction, nor the latch of a foreign output bit. -/
def Obligations.ForeignBitsAreKept : Prop :=
  ∀ (i : Instr) (s t : State) (j : BitVec 5), hostOperation i = false → s.profile.wellFormed s.params = true →
    exec i s = .next t →
    ((∀ g, j ≠ s.profile.pin g) →
      t.banks.dirCtrl.getLsbD (rbit j) = s.banks.dirCtrl.getLsbD (rbit j) ∧
      (s.banks.dirCtrl.getLsbD (rbit j) = true →
        t.banks.outCtrl.getLsbD (rbit j) = s.banks.outCtrl.getLsbD (rbit j))) ∧
    (onBus s.profile j = false →
      t.banks.dirData.getLsbD (rbit j) = s.banks.dirData.getLsbD (rbit j) ∧
      (s.banks.dirData.getLsbD (rbit j) = true →
        t.banks.outData.getLsbD (rbit j) = s.banks.outData.getLsbD (rbit j)))

/-- 60_exceptions.md R127, R134: a step that enters FAILED records the cause; `PH` is 0, `BUSY` is 0; the counters keep
the values R127 lists. -/
def Obligations.FailureRecordsItsCause : Prop :=
  ∀ s t : State, s.Inv → s.busy = true → seqStep s = .next t → t.st = stFailed →
    t.ph = false ∧ t.busy = false ∧
    ((t.reason = .initTimeout ∧ t.poll = t.iwb ∧ (s.st = stReset ∨ s.st = stWaitInit)) ∨
     (t.reason = .programmingRejected ∧ t.idx = t.n ∧ s.st = stWaitDone ∧ s.ph = false) ∨
     (t.reason = .doneTimeout ∧ t.poll = t.dwb ∧ s.st = stWaitDone))

/-- 42_sequencer.md R99, R113, R115: a reset-only attempt takes exactly two steps and 17 transactions, and ends in DONE;
it consults no input. -/
def Obligations.ResetOnlyTakesTwoSteps : Prop :=
  ∀ s : State, s.Inv → s.st = stSetup → s.ro = true →
    ∃ t u, seqRun 1 s = .next t ∧ t.busy = true ∧ seqRun 2 s = .next u ∧ u.st = stDone ∧ u.reason = .none ∧
      u.trace.length = s.trace.length + 17

/-- 42_sequencer.md R104: after the framing of a payload that is not empty, `k` chunk steps have consumed `k` chunks,
and exactly `N / busWidth` of them lead to WAIT_DONE. -/
def Obligations.ExactlyOneChunkStepPerChunk : Prop :=
  ∀ (s : State) (k : Nat), s.Inv → s.st = stShifting → s.ph = false → 0 < s.n.toNat → k ≤ s.chunks →
    ∃ t, seqRun (1 + k) s = .next t ∧ t.idx.toNat = k * s.busWidth.toNat ∧
      s.chunks * s.busWidth.toNat = s.n.toNat ∧
      (k < s.chunks → t.st = stShifting ∧ t.ph = true) ∧ (k = s.chunks → t.st = stWaitDone ∧ t.ph = false)

/-- 42_sequencer.md R114, first item: on the real port, if INIT reads 0 at every poll, a full attempt ends in
FAILED(InitTimeout) after exactly `IWB` polls, and not before. TARGET's levels are the scripted ones (log 5). -/
def Obligations.InitNeverReadyTimesOut : Prop :=
  ∀ s : State, s.Inv → s.st = stSetup → s.ro = false → s.env.backend = .real →
    5 + s.iwb.toNat ≤ s.env.target.length →
    (∀ v ∈ s.env.target, v.getLsbD (rbit s.profile.pinInit) = false) →
    (∀ k t, k < 2 + s.iwb.toNat → seqRun k s = .next t → t.busy = true) ∧
    ∃ t, seqRun (2 + s.iwb.toNat) s = .next t ∧ t.st = stFailed ∧ t.reason = .initTimeout ∧ t.poll = s.iwb ∧
      t.trace.length = s.trace.length + 17 + s.iwb.toNat

/-- 42_sequencer.md R114, second item: on the real port, if INIT passes the re-check but DONE reads 0 at every poll, the
attempt ends in FAILED(DoneTimeout) after exactly `DWB` polls. TARGET's levels are the scripted ones (log 5). -/
def Obligations.DoneNeverHighTimesOut : Prop :=
  ∀ (s : State) (v : Word) (vs : List Word), s.Inv → s.st = stWaitDone → s.ph = false → s.env.backend = .real →
    s.env.target = v :: vs → v.getLsbD (rbit s.profile.pinInit) = true → s.dwb.toNat ≤ vs.length →
    (∀ u ∈ vs, u.getLsbD (rbit s.profile.pinDone) = false) →
    (∀ k t, k < 1 + s.dwb.toNat → seqRun k s = .next t → t.busy = true) ∧
    ∃ t, seqRun (1 + s.dwb.toNat) s = .next t ∧ t.st = stFailed ∧ t.reason = .doneTimeout ∧ t.poll = s.dwb ∧
      t.trace.length = s.trace.length + 1 + s.dwb.toNat ∧ t.banks = s.banks

/-- 42_sequencer.md R115: whatever TARGET does, an attempt reaches DONE or FAILED within
`13 + IWB + DWB + N / busWidth` sequencer steps. -/
def Obligations.EveryAttemptTerminates : Prop :=
  ∀ s : State, s.Inv → s.busy = true →
    ∃ k t, k ≤ 13 + s.iwb.toNat + s.dwb.toNat + s.chunks ∧ seqRun k s = .next t ∧ (t.st = stDone ∨ t.st = stFailed)

/-- 42_sequencer.md R113: the transactions of a full attempt, by how it ends after `k` steps. The polls are counted by
the steps: `P_i + P_d = k - 12 - C` on success, and so on. -/
def Obligations.TransactionsOfAnAttempt : Prop :=
  ∀ (s t : State) (k : Nat), s.Inv → s.st = stSetup → s.ro = false →
    (∀ j u, j < k → seqRun j s = .next u → u.busy = true) → seqRun k s = .next t → t.busy = false →
    let c := s.chunks
    (t.st = stDone → 12 + c ≤ k ∧ t.trace.length = s.trace.length + 54 + 5 * c + (k - 12 - c)) ∧
    (t.reason = .initTimeout → t.trace.length = s.trace.length + 17 + s.iwb.toNat) ∧
    (t.reason = .programmingRejected →
      4 + c ≤ k ∧ t.trace.length = s.trace.length + 30 + (k - 4 - c) + 5 * c) ∧
    (t.reason = .doneTimeout → 4 + c + s.dwb.toNat ≤ k ∧
      t.trace.length = s.trace.length + 30 + (k - 4 - c - s.dwb.toNat) + 5 * c + s.dwb.toNat)

/-! ## Host commands -/

/-- 43_host_commands.md R118, R119 with 00_scope.md R9: CMD.CONFIG loads the profile of its words and the bounds exactly
when the conditions hold, and is otherwise refused with everything as it was. That windows do not overlap exactly when
the four addresses differ is the model's reading (log 25), and so is the refusal of a base wider than the address, by the
condition that no address wraps (log 13). -/
def Obligations.ConfigLoadsOnlyAWellFormedProfile : Prop :=
  ∀ (s : State) (pinw geow iwb dwb : Word) (cb db : Nat),
    (ConfigOk s.params pinw geow cb db →
      exec (.cmdConfig pinw geow cb db iwb dwb) s = .next { s with
        profile := ⟨cb, db, pinw.extractLsb' 25 5, pinw.extractLsb' 20 5, pinw.extractLsb' 15 5,
          pinw.extractLsb' 10 5, pinw.extractLsb' 5 5, pinw.extractLsb' 0 5, geow.extractLsb' 0 5,
          geow.extractLsb' 8 5⟩
        iwb := iwb, dwb := dwb, cfgv := true, resp := some 0#32 }) ∧
    (¬ ConfigOk s.params pinw geow cb db →
      exec (.cmdConfig pinw geow cb db iwb dwb) s = .next (s.refuse .badProfile))

/-- 43_host_commands.md R120: an accepted CMD.PROGRAM loads the session, clears the attempt's registers and starts
SETUP, with no bus transaction. -/
def Obligations.ProgramStartsAnAttempt : Prop :=
  ∀ (s : State) (v : Bool) (pay : List Byte), s.cfgv = true → pay.length < 2 ^ 32 →
    (v = true → s.profile.dataWidthBits ≠ 8#5 ∧ pay.length % 2 = 0) →
    ∃ t, exec (.cmdProgram v pay) s = .next t ∧ t.w = v ∧ t.pay = pay ∧ t.n.toNat = pay.length ∧ t.ro = false ∧
      t.reason = .none ∧ t.ph = false ∧ t.poll = 0#32 ∧ t.idx = 0#32 ∧ t.scnt = 0#4 ∧ t.st = 0x1#4 ∧
      t.busy = true ∧ t.resp = some 0#32 ∧
      t = { s with w := t.w, pay := t.pay, n := t.n, ro := t.ro, reason := t.reason, ph := t.ph, poll := t.poll,
                   idx := t.idx, scnt := t.scnt, st := t.st, resp := t.resp }

/-- 43_host_commands.md R121: the refusals of CMD.PROGRAM, in their order. -/
def Obligations.ProgramRefusalsInOrder : Prop :=
  ∀ (s : State) (v : Bool) (pay : List Byte), pay.length < 2 ^ 32 →
    (s.cfgv = false → exec (.cmdProgram v pay) s = .next (s.refuse .noProfile)) ∧
    (s.cfgv = true → v = true → s.profile.dataWidthBits = 8#5 →
      exec (.cmdProgram v pay) s = .next (s.refuse .widthMismatch)) ∧
    (s.cfgv = true → v = true → s.profile.dataWidthBits ≠ 8#5 → pay.length % 2 = 1 →
      exec (.cmdProgram v pay) s = .next (s.refuse .oddPayload))

/-- 43_host_commands.md R122: CMD.RESET_ONLY starts a reset-only attempt and leaves `W`, `PAY` and `N`; with no profile
it is refused. -/
def Obligations.ResetOnlyStartsAnAttempt : Prop :=
  ∀ s : State,
    (s.cfgv = false → exec .cmdResetOnly s = .next (s.refuse .noProfile)) ∧
    (s.cfgv = true → exec .cmdResetOnly s = .next { s with
      ro := true, reason := .none, ph := false, poll := 0#32, idx := 0#32, scnt := 0#4, st := 0x1#4,
      resp := some 0#32 })

/-- 43_host_commands.md R123 with 30_encoding.md R78 and 10_state.md R38: the fields of the status word; CMD.STATUS
changes nothing else. -/
def Obligations.StatusWordFields : Prop :=
  ∀ s : State, ∃ v, exec .cmdStatus s = .next { s with resp := some v } ∧
    v.extractLsb' 0 4 = s.st ∧ v.getLsbD 4 = s.ph ∧ v.getLsbD 5 = s.ro ∧
    v.extractLsb' 6 2 = (match s.reason with
      | .none => 0#2 | .initTimeout => 1#2 | .programmingRejected => 2#2 | .doneTimeout => 3#2) ∧
    v.getLsbD 8 = decide (1 ≤ s.st.toNat ∧ s.st.toNat ≤ 6) ∧ v.getLsbD 9 = s.cfgv ∧ v.extractLsb' 10 22 = 0#22

/-! ## The machine -/

/-- A step runs the decoded instruction. Where the sequencer moves, the step is exec of the step rule the selector names.
Where HOST `k` moves and its stream begins with an operation the lock lets through, the step is exec of that operation;
the operation's words and payload are consumed before it, and its response is delivered after it. Around exec the step
chooses the move (the model's, log 6), lets the held operations wait (log 34) and sets the fault mark if the selector is
reserved (log 9). -/
def Obligations.StepRunsTheDecodedInstruction : Prop :=
  (∀ (s : State) (i : Instr), s.nextMove = .seq → decodeSelector s.selector = some i →
    step s = exec i { s with env := s.envAfter, held := s.waiting }) ∧
  (∀ (s : State) (k : Nat) (h : HostAgent) (i : Instr) (ws : List Word) (ps : List (List Byte)),
    s.nextMove = .host k → s.hosts[k]? = some h →
    decodeStream s.params.addrWidth h.stream h.pays = .op i ws ps → (s.busy = false ∨ i = .cmdStatus) →
    ∃ s1, s1 = { s with env := s.envAfter, held := s.waiting,
                        hosts := s.hosts.set k { h with stream := ws, pays := ps },
                        fault := s.fault || (decodeSelector s.selector).isNone } ∧
      match exec i s1 with
      | .next t => step s = .next (t.deliver k i)
      | .fault f => step s = .fault f
      | .refused r => step s = .refused r)

/-- A payload longer than `2^32 - 1` bytes, which 30_encoding.md R74 excludes, stops the machine by name. That it faults,
and before any refusal, is the model's choice (log 12). -/
def Obligations.OverlongPayloadFaults : Prop :=
  ∀ (s : State) (v : Bool) (pay : List Byte), 2 ^ 32 ≤ pay.length →
    exec (.cmdProgram v pay) s = .fault .payloadTooLong

/-- 43_host_commands.md R117: while `BUSY = 1` an operation other than CMD.STATUS is held with its HOST, and nothing of
the block changes; CMD.STATUS is answered at once. How long it may be passed over later is a free value of the model
(log 34). -/
def Obligations.LockHoldsOperationsWhileBusy : Prop :=
  ∀ (s : State) (k : Nat) (h : HostAgent) (i : Instr) (ws : List Word) (ps : List (List Byte)),
    s.nextMove = .host k → s.hosts[k]? = some h → (decodeSelector s.selector).isSome = true →
    decodeStream s.params.addrWidth h.stream h.pays = .op i ws ps → s.busy = true →
    (i ≠ .cmdStatus → ∃ t patience, step s = .next t ∧ t.held = s.held ++ [⟨k, i, patience⟩] ∧
      t.hosts = s.hosts.set k { h with stream := ws, pays := ps } ∧
      t = { s with held := t.held, hosts := t.hosts, env := s.envAfter }) ∧
    (i = .cmdStatus → ∃ t, step s = .next t ∧ t.resp = some s.statusWord ∧
      t.hosts = s.hosts.set k { h with stream := ws, pays := ps, inbox := h.inbox ++ [⟨.cmdStatus, s.statusWord⟩] } ∧
      t = { s with resp := t.resp, hosts := t.hosts, env := s.envAfter })

/-- 60_exceptions.md R133 item 1: an illegal word is refused at once, even while busy, with no effect but the marks. That
only the one word leaves the stream is the model's choice (log 14). -/
def Obligations.IllegalWordIsRefusedAtOnce : Prop :=
  ∀ (s : State) (k : Nat) (h : HostAgent) (e : DecodeError),
    s.nextMove = .host k → s.hosts[k]? = some h → (decodeSelector s.selector).isSome = true →
    decodeStream s.params.addrWidth h.stream h.pays = .illegal e →
    ∃ t, step s = .next t ∧ t.refused = true ∧ t.refusedFor = some .illegalEncoding ∧ t.resp = none ∧
      t.hosts = s.hosts.set k { h with stream := h.stream.tail } ∧
      t = { s with refused := t.refused, refusedFor := t.refusedFor, resp := t.resp, hosts := t.hosts,
                   env := s.envAfter, held := s.waiting }

/-- 43_host_commands.md R117: a held operation is accepted only when `BUSY = 0`, at most one before `BUSY` is looked at
again; any of them can be the first; and none is held for ever: from every state that meets the invariant each held
operation is accepted within a number of steps, unless the machine stops on an overlong payload before (log 12). That a
release is a move of the schedule is the model's choice (log 6), and so are that such a move, whatever its index, accepts
exactly one where one is held (log 16), and the free but finite delays (log 34). -/
def Obligations.OneHeldOperationIsReleased : Prop :=
  (∀ (s : State) (k : Nat), s.nextMove = .release k → (decodeSelector s.selector).isSome = true →
    (s.busy = true → step s = .next { s with env := s.envAfter }) ∧
    (s.busy = false → s.held ≠ [] → ∃ (before after : List HeldOp) (o : HeldOp), s.held = before ++ o :: after ∧
      s.accepts = some before.length ∧
      step s = perform o.host o.instr { s with held := (before ++ after).map HeldOp.passed, env := s.envAfter })) ∧
  (∀ (s : State) (before after : List HeldOp) (o : HeldOp) (ms : List Move), s.busy = false →
    (decodeSelector s.selector).isSome = true → s.held = before ++ o :: after →
    s.env.sched = .release before.length :: ms →
    step s = perform o.host o.instr { s with held := (before ++ after).map HeldOp.passed, env := s.envAfter } ∧
      s.envAfter.sched = ms) ∧
  (∀ (s : State) (j : Nat), s.Inv → j < s.held.length → ∃ n, AcceptedWithin n s j)

/-- 60_exceptions.md R132: where the selector is reserved a step sets `FAULT`, and the sequencer has no step. That the step of
any agent sets the mark, and that a move of the sequencer is then a next state with nothing else of the block changed, is
the model's choice (log 9); around it the step takes the move (log 6) and lets the held operations wait one step more
(log 34). -/
def Obligations.ReservedSelectorSetsFault : Prop :=
  ∀ (s : State), decodeSelector s.selector = none →
    (∀ t, step s = .next t → t.fault = true) ∧
    (s.nextMove = .seq → step s = .next { s with fault := true, env := s.envAfter, held := s.waiting })

/-- Every step keeps the invariant: the counters' bounds, the phases, the directions and levels of an attempt, the
profile behind `CFGV`, the held operations (10_state.md R29 to R37, 30_encoding.md R67, 43_host_commands.md R117). -/
def Obligations.EveryStepKeepsTheInvariant : Prop :=
  ∀ s t : State, s.Inv → step s = .next t → t.Inv

/-- The invariant holds after power-on, whatever the unspecified registers hold (70_reset_and_hazards.md R151, R152). -/
def Obligations.PowerOnMeetsTheInvariant : Prop :=
  ∀ d : PowerOn, d.params.wellFormed = true → (State.powerOn d).Inv

/-- 70_reset_and_hazards.md R151 with 10_state.md R41: the values power-on reset sets, for every value of what it leaves
unspecified; the block takes no step and makes no transaction until HOST issues a word. That a move of the sequencer then
is a next state with nothing changed, and not a stop, is the model's choice (log 10). -/
def Obligations.PowerOnResetValues : Prop :=
  (∀ d : PowerOn, let s := State.powerOn d
    s.st = 0x0#4 ∧ s.ph = false ∧ s.ro = false ∧ s.reason = .none ∧ s.poll = 0#32 ∧ s.idx = 0#32 ∧ s.scnt = 0#4 ∧
    s.w = false ∧ s.cfgv = false ∧ s.pay = [] ∧ s.n = 0#32 ∧ s.trace = [] ∧ s.refused = false ∧ s.fault = false ∧
    seqStep s = .next s) ∧
  (∃ d : PowerOn, State.reset = State.powerOn d) ∧
  (∀ s t : State, s.busy = false → s.held = [] → (∀ h ∈ s.hosts, h.stream = [] ∧ h.run = none) →
    step s = .next t → t.trace = s.trace ∧ t.st = s.st)

/-- 43_host_commands.md R125: while busy, no step of any agent changes the profile, the bounds or the session. -/
def Obligations.ProfileIsFixedDuringAnAttempt : Prop :=
  ∀ s t : State, s.busy = true → step s = .next t →
    t.profile = s.profile ∧ t.cfgv = s.cfgv ∧ t.iwb = s.iwb ∧ t.dwb = s.dwb ∧ t.w = s.w ∧ t.pay = s.pay ∧
    t.n = s.n ∧ t.params = s.params

/-- 42_sequencer.md R111: no transition leaves DONE or FAILED but the start of a new attempt through SETUP. -/
def Obligations.NoAttemptIsResumed : Prop :=
  ∀ s t : State, s.Inv → s.st = stDone ∨ s.st = stFailed → step s = .next t →
    (t.st = s.st ∧ t.reason = s.reason) ∨
    (t.st = stSetup ∧ t.ph = false ∧ t.reason = .none ∧ t.poll = 0#32 ∧ t.idx = 0#32 ∧ t.scnt = 0#4)

/-- 10_state.md R40: the marks are never cleared, and the trace is append-only; the parameters are constant. -/
def Obligations.MarksAndTraceOnlyGrow : Prop :=
  ∀ s t : State, step s = .next t →
    (s.refused = true → t.refused = true) ∧ (s.fault = true → t.fault = true) ∧ s.trace <+: t.trace ∧
    t.params = s.params

/-- 00_scope.md R13 with 10_state.md R16 to R18 and R24: the new trace entries of any instruction, read back by the
register rules, give the bank registers it leaves: every change of a register is a write of the trace, at the register's
address, and every read is of a register. -/
def Obligations.TraceAccountsForTheBanks : Prop :=
  ∀ (i : Instr) (s t : State), s.profile.wellFormed s.params = true → exec i s = .next t →
    ∃ es, t.trace = s.trace ++ es ∧ replay s s.banks es = some t.banks

/-! ## The HOST's contract and the assembler -/

/-- 60_exceptions.md R144, R146, R147: no step makes a run exceed 3 attempts; one attempt of a run: the image's failure is
recorded with no word issued, the payload is issued with CMD.PROGRAM and the width code, and after 3 attempts the last
failure is reported and the session lock released (R150). `answers` says what fetch and parse give: the run's scripted
answer, or the free value where the script is empty (log 21). The phases of a run are the model's choice (log 20), and so
is that an attempt, a retry too, issues no word but these: R148 with 92_eei_decisions.md D48 lets HOST issue SETDIR or
CMD.CONFIG again (log 36). -/
def Obligations.RunMakesAtMostThreeAttempts : Prop :=
  (∀ s t : State, (∀ h ∈ s.hosts, ∀ r, h.run = some r → r.attempts ≤ 3) → step s = .next t →
    ∀ h ∈ t.hosts, ∀ r, h.run = some r → r.attempts ≤ 3) ∧
  (∀ (s : State) (k : Nat) (h : HostAgent) (r : HostRun), s.hosts[k]? = some h → h.run = some r →
    r.phase = .nextAttempt →
    let answers (x : ImageResult) (images : List ImageResult) (env : Env) : Prop :=
      (r.images = x :: images ∧ env = s.env) ∨
      (r.images = [] ∧ images = [] ∧ x = Config.freeImage s.env.fresh ∧ env = { s.env with fresh := s.env.fresh + 1 })
    (3 ≤ r.attempts → s.runLock = some k →
      s.runHost k = { s with hosts := s.hosts.set k { h with run := some { r with phase := .failed r.lastError } },
                             runLock := none }) ∧
    (∀ pay images env, r.attempts < 3 → answers (.payload pay) images env →
      s.runHost k = { s with env := env, hosts := s.hosts.set k { h with
        stream := h.stream ++ [if r.busWidth = 2 then 0x11400000#32 else 0x11000000#32], pays := h.pays ++ [pay],
        run := some { r with phase := .awaitStart, attempts := r.attempts + 1, images := images } } }) ∧
    (∀ x e images env, r.attempts < 3 → answers x images env →
      (x = .unavailable ∧ e = .firmwareUnavailable) ∨ (x = .corruptHeader ∧ e = .corruptHeader) ∨
        (x = .truncated ∧ e = .truncatedInput) →
      s.runHost k = { s with env := env, hosts := s.hosts.set k { h with
        run := some { r with attempts := r.attempts + 1, images := images, lastError := some e } } }))

/-- 60_exceptions.md R146 steps 4 and 5, R145 and R150: a run polls CMD.STATUS while `BUSY` is set; `ST = DONE`, or the end
of a reset-only attempt, is success and releases the session lock; `ST = FAILED` is the failure `REASON` names. The phases
of a run are the model's choice (log 20), and so is how it finds the answer: the oldest response of its HOST, if it is one
of CMD.STATUS (log 32). That this is the run's own CMD.STATUS is the last part: where no run has begun the runs are in step,
every step keeps them so, and in step a waiting run's HOST has received at most that one response, and while it has none
the run waits. -/
def Obligations.RunActsOnTheStatusWord : Prop :=
  (∀ (s : State) (k : Nat) (h : HostAgent) (r : HostRun) (v : Word) (vs : List Response), s.hosts[k]? = some h →
    h.run = some r → r.phase = .awaitStatus → h.inbox = ⟨.cmdStatus, v⟩ :: vs → s.runLock = some k →
    (v.getLsbD 8 = true →
      s.runHost k = { s with hosts := s.hosts.set k { h with inbox := vs, stream := h.stream ++ [0x13000000#32] } }) ∧
    (v.getLsbD 8 = false → isResetSentinel r.imageSource = true ∨ v.extractLsb' 0 4 = 0x7#4 →
      s.runHost k = { s with hosts := s.hosts.set k { h with inbox := vs, run := some { r with phase := .succeeded } },
                             runLock := none }) ∧
    (∀ e, v.getLsbD 8 = false → isResetSentinel r.imageSource = false → v.extractLsb' 0 4 = 0x8#4 →
      (v.extractLsb' 6 2 = 1#2 ∧ e = .initTimeout) ∨ (v.extractLsb' 6 2 = 2#2 ∧ e = .programmingRejected) ∨
        (v.extractLsb' 6 2 = 3#2 ∧ e = .doneTimeout) →
      s.runHost k = { s with hosts := s.hosts.set k { h with
        inbox := vs, run := some { r with phase := .nextAttempt, lastError := some e } } })) ∧
  (∀ d : PowerOn, (∀ h ∈ d.hosts, ∀ r, h.run = some r → r.phase = .waitLock) → (State.powerOn d).RunsInStep) ∧
  (∀ s t : State, s.RunsInStep → step s = .next t → t.RunsInStep) ∧
  (∀ (s : State) (k : Nat) (h : HostAgent) (r : HostRun), s.RunsInStep → s.hosts[k]? = some h → h.run = some r →
    r.phase = .awaitStatus → (h.inbox = [] ∧ s.runHost k = s) ∨ ∃ v, h.inbox = [⟨.cmdStatus, v⟩])

/-- 60_exceptions.md R143: a run takes the session lock (R150) and issues the CMD.CONFIG whose words name the resolved
profile: the board's, or the fallback for an unrecognised identifier. That it begins only when every earlier word of its
HOST has been performed or refused, and forgets what they left, is the model's choice (log 32). -/
def Obligations.RunConfiguresTheResolvedBoard : Prop :=
  ∀ (s : State) (k : Nat) (h : HostAgent) (r : HostRun), s.hosts[k]? = some h → h.run = some r → r.phase = .waitLock →
    ((s.runLock ≠ none ∨ h.stream ≠ [] ∨ ∃ o ∈ s.held, o.host = k) → s.runHost k = s) ∧
    (s.runLock = none → h.stream = [] → (∀ o ∈ s.held, o.host ≠ k) →
    ∃ ws p, s.runHost k = { s with
        runLock := some k
        hosts := s.hosts.set k
          { stream := ws, pays := [], inbox := [], run := some { r with phase := .awaitConfig } } } ∧
      (∀ p', (r.boardId, p') ∈ s.params.boards → (∀ x ∈ s.params.boards, x.1 = r.boardId → x.2 = p') → p = p') ∧
      ((∀ x ∈ s.params.boards, x.1 ≠ r.boardId) → p = s.params.defaultBoard) ∧
      (p.ctrlBase < 2 ^ (32 * baseWords s.params.addrWidth) → p.dataBase < 2 ^ (32 * baseWords s.params.addrWidth) →
        ∃ pinw geow, decodeStream s.params.addrWidth ws [] =
            .op (.cmdConfig pinw geow p.ctrlBase p.dataBase r.iwb r.dwb) [] [] ∧
          profileOf pinw geow p.ctrlBase p.dataBase = p ∧ configBitsClear pinw geow = true))

/-- 60_exceptions.md R145: the sentinel is "reset" in any mix of cases and nothing else; after CONFIG such a run issues
CMD.RESET_ONLY and fetches nothing. That "after CONFIG" is the response of CMD.CONFIG, received as the HOST's oldest, is the
model's choice (log 20, log 32). -/
def Obligations.ResetSentinelIssuesResetOnly : Prop :=
  (∀ source : List Byte, isResetSentinel source = true ↔ ∃ c1 c2 c3 c4 c5, source = [c1, c2, c3, c4, c5] ∧
    (c1 = 0x52#8 ∨ c1 = 0x72#8) ∧ (c2 = 0x45#8 ∨ c2 = 0x65#8) ∧ (c3 = 0x53#8 ∨ c3 = 0x73#8) ∧
    (c4 = 0x45#8 ∨ c4 = 0x65#8) ∧ (c5 = 0x54#8 ∨ c5 = 0x74#8)) ∧
  (∀ (s : State) (k : Nat) (h : HostAgent) (r : HostRun) (pinw geow iwb dwb v : Word) (cb db : Nat)
    (vs : List Response), s.hosts[k]? = some h → h.run = some r → r.phase = .awaitConfig →
    h.inbox = ⟨.cmdConfig pinw geow cb db iwb dwb, v⟩ :: vs → isResetSentinel r.imageSource = true →
    s.runHost k = { s with hosts := s.hosts.set k { h with
      inbox := vs, stream := h.stream ++ [0x12000000#32], run := some { r with phase := .awaitStart } } })

/-- 30_encoding.md R79 to R81: what each line and each pseudo-instruction expands to; a signal name of bank CTRL is the
profile's pin, and with bank DATA an error; an operand outside its range is an error (that it is one, and the bounds of a
base and a payload, are the model's choice, log 27). The words of a line that assembles decode, one after the other, to
the operations it expands to, which are well-formed operations of HOST. -/
def Obligations.AssembledLinesAreWellFormed : Prop :=
  ∀ (aw : Nat) (p : Profile),
    let line (l : AsmLine) (is : List Instr) : Prop := l.expand aw p = .ok is
    let outOfRange (l : AsmLine) : Prop := l.expand aw p = .error .operandRange
    let onData (l : AsmLine) : Prop := l.expand aw p = .error .signalOnData
    let signal (g : Signal) : BitVec 5 := match g with
      | .program => p.pinProgram | .init => p.pinInit | .csi => p.pinCsi
      | .rdwr => p.pinRdwr | .clock => p.pinClock | .done => p.pinDone
    let names (b : Bank) (q : PinOperand) (i : BitVec 5) : Prop :=
      q = .index i.toNat ∨ (b = .ctrl ∧ ∃ g, q = .signal g ∧ i = signal g)
    let top := 2 ^ (32 * baseWords aw)
    (line .bswap [.bswap] ∧ line .resetOnly [.cmdResetOnly] ∧ line .status [.cmdStatus]) ∧
    (∀ (o : BitVec 5) (y : Byte), o.toNat ≤ 24 → line (.splice o.toNat y.toNat) [.splice o y]) ∧
    (∀ imm : Word, line (.ldw imm.toNat) [.ldw imm]) ∧
    (∀ b r, line (.rdreg b r) [.rdreg b r] ∧ line (.wrreg b r) [.wrreg b r]) ∧
    (∀ b q i, names b q i →
      line (.setbit b q 0) [.setbit b false i] ∧ line (.setbit b q 1) [.setbit b true i] ∧
      line (.getbit b q) [.getbit b i] ∧ line (.pulse b q) [.pulse b i] ∧
      line (.set b q) [.setbit b true i] ∧ line (.clr b q) [.setbit b false i]) ∧
    (∀ (b : Bank) (o n : Word), line (.setdir b o.toNat n.toNat) [.setdir b o n]) ∧
    (∀ (pinw geow iwb dwb : Word) (cb db : Nat), cb < top → db < top →
      line (.config pinw.toNat geow.toNat cb db iwb.toNat dwb.toNat) [.cmdConfig pinw geow cb db iwb dwb]) ∧
    (∀ pay : List Byte, pay.length < 2 ^ 32 →
      line (.program 1 pay) [.cmdProgram false pay] ∧ line (.program 2 pay) [.cmdProgram true pay]) ∧
    line .clk [.pulse .ctrl p.pinClock] ∧
    (∀ (o : BitVec 5) (y : Byte), o.toNat ≤ 24 → line (.putb o.toNat y.toNat)
      [.rdreg .data .dat, .bswap, .splice o y, .bswap, .wrreg .data .dat]) ∧
    line .dirsetup
      [.setdir .ctrl (lmask p.pinProgram ||| lmask p.pinCsi ||| lmask p.pinRdwr ||| lmask p.pinClock)
        (lmask p.pinInit ||| lmask p.pinDone),
       .setdir .data (((1#32 <<< p.dataWidthBits.toNat) - 1#32) <<<
        (32 - p.dataStartBit.toNat - p.dataWidthBits.toNat)) 0#32] ∧
    (∀ g v, onData (.setbit .data (.signal g) v) ∧ onData (.getbit .data (.signal g)) ∧
      onData (.pulse .data (.signal g)) ∧ onData (.set .data (.signal g)) ∧ onData (.clr .data (.signal g))) ∧
    (∀ o y, 24 < o ∨ 256 ≤ y → outOfRange (.splice o y) ∧ outOfRange (.putb o y)) ∧
    (∀ b n v, 32 ≤ n → outOfRange (.setbit b (.index n) v) ∧ outOfRange (.getbit b (.index n)) ∧
      outOfRange (.pulse b (.index n)) ∧ outOfRange (.set b (.index n)) ∧ outOfRange (.clr b (.index n))) ∧
    (∀ b q i v, names b q i → 2 ≤ v → outOfRange (.setbit b q v)) ∧
    (∀ imm, 2 ^ 32 ≤ imm → outOfRange (.ldw imm)) ∧
    (∀ b o n, 2 ^ 32 ≤ o ∨ 2 ^ 32 ≤ n → outOfRange (.setdir b o n)) ∧
    (∀ pinw geow cb db iwb dwb, 2 ^ 32 ≤ pinw ∨ 2 ^ 32 ≤ geow ∨ top ≤ cb ∨ top ≤ db ∨ 2 ^ 32 ≤ iwb ∨ 2 ^ 32 ≤ dwb →
      outOfRange (.config pinw geow cb db iwb dwb)) ∧
    (∀ w (pay : List Byte), (w ≠ 1 ∧ w ≠ 2) ∨ 2 ^ 32 ≤ pay.length → outOfRange (.program w pay)) ∧
    (∀ l is, line l is → is ≠ [] ∧ (∀ i ∈ is, hostOperation i = true ∧ i.wf aw = true) ∧
      ∃ ws ps, l.assemble aw p = .ok (ws, ps) ∧ DecodesTo aw is ws ps) ∧
    (∀ (l : AsmLine) (e : AsmError), l.expand aw p = .error e → l.assemble aw p = .error e)
end

