-- ==== Sys2Proof/Laws/Assembler.lean ====
section
/-! SUPPORT. What the operand checks of the assembler can answer (30_encoding.md R79, R80), and how the words of several
operations decode one after the other. -/

namespace Sys2Proof.Machine

/-! ## Operands -/

theorem operand_toNat {n : Nat} (x : BitVec n) : operand n x.toNat = .ok x := by
  rw [operand, if_pos x.isLt, BitVec.ofNat_toNat, BitVec.setWidth_eq]

theorem operand_outOfRange {n x : Nat} (h : 2 ^ n ≤ x) : operand n x = .error .operandRange :=
  if_neg (Nat.not_lt.mpr h)

theorem offsetOperand_toNat {o : BitVec 5} (h : o.toNat ≤ 24) : offsetOperand o.toNat = .ok o := by
  rw [offsetOperand, if_pos h, operand_toNat]

theorem offsetOperand_outOfRange {x : Nat} (h : 24 < x) : offsetOperand x = .error .operandRange :=
  if_neg (Nat.not_le.mpr h)

/-- An offset the assembler accepts names a field inside the word (30_encoding.md R64). -/
theorem offsetOperand_ok {x : Nat} {o : BitVec 5} (h : offsetOperand x = .ok o) : o.toNat ≤ 24 := by
  unfold offsetOperand operand at h
  split at h
  · next h24 =>
    rw [if_pos (by omega)] at h
    cases h
    rw [BitVec.toNat_ofNat]
    omega
  · cases h

theorem baseOperand_ok {aw x y : Nat} (h : baseOperand aw x = .ok y) : y = x ∧ y < 2 ^ (32 * baseWords aw) := by
  unfold baseOperand at h
  split at h
  · next hx => cases h; exact ⟨rfl, hx⟩
  · cases h

theorem payloadOperand_ok {pay y : List Byte} (h : payloadOperand pay = .ok y) : y = pay ∧ y.length < 2 ^ 32 := by
  unfold payloadOperand at h
  split at h
  · next hx => cases h; exact ⟨rfl, hx⟩
  · cases h

/-- A numbered pin is that pin in either bank. -/
theorem pinOperand_index (p : Profile) (b : Bank) (i : BitVec 5) : pinOperand p b (.index i.toNat) = .ok i :=
  operand_toNat i

theorem pinOperand_outOfRange (p : Profile) (b : Bank) {n : Nat} (h : 32 ≤ n) :
    pinOperand p b (.index n) = .error .operandRange := operand_outOfRange h

/-- A signal name is the profile's pin in bank CTRL, and an error in bank DATA (30_encoding.md R80). -/
theorem pinOperand_signal (p : Profile) (b : Bank) (g : Signal) :
    pinOperand p b (.signal g) = match b with
      | .ctrl => .ok (p.pin g)
      | .data => .error .signalOnData := by
  cases b <;> rfl

/-! ## The words of several operations -/

/-- Operations whose encodings decode to them, whatever follows, decode one after the other. -/
theorem decodesTo_of_each {aw : Nat} {is : List Instr}
    (h : ∀ i ∈ is, ∀ rest more,
      decodeStream aw ((encode aw i).words ++ rest) ((encode aw i).pays ++ more) = .op i rest more) :
    DecodesTo aw is (is.map (fun i => (encode aw i).words)).flatten (is.map (fun i => (encode aw i).pays)).flatten := by
  induction is with
  | nil => exact ⟨rfl, rfl⟩
  | cons i is ih =>
    rw [List.forall_mem_cons] at h
    exact ⟨_, _, h.1 _ _, ih h.2⟩

/-- A line that expands assembles to the words of its operations. -/
theorem assemble_of_expand {aw : Nat} {p : Profile} {l : AsmLine} {is : List Instr} (h : l.expand aw p = .ok is) :
    l.assemble aw p = .ok ((is.map (fun i => (encode aw i).words)).flatten,
      (is.map (fun i => (encode aw i).pays)).flatten) := by
  rw [AsmLine.assemble, h]

theorem assemble_of_error {aw : Nat} {p : Profile} {l : AsmLine} {e : AsmError} (h : l.expand aw p = .error e) :
    l.assemble aw p = .error e := by
  rw [AsmLine.assemble, h]

end Sys2Proof.Machine
end

