-- ==== Sys2Proof/Laws/Decode.lean ====
section
/-! SUPPORT. The small lemmas of the decoder and the encoder: the bits of an operation word, its fields, which row a word
matches, and the extension words that hold one number. -/

namespace Sys2Proof

/-! ## The bits and fields of an operation word -/

/-- The layout of 30_encoding.md R69, bit by bit. -/
theorem odw_getLsbD (op : BitVec 8) (b v r : BitVec 1) (i : BitVec 5) (y : Byte) (o : BitVec 5) (k : Nat) :
    (odw op b v r i y o).getLsbD k = if k < 5 then o.getLsbD k else if k < 8 then false
      else if k < 16 then y.getLsbD (k - 8) else if k < 21 then i.getLsbD (k - 16)
      else if k < 22 then r.getLsbD (k - 21) else if k < 23 then v.getLsbD (k - 22)
      else if k < 24 then b.getLsbD (k - 23) else op.getLsbD (k - 24) := by
  have : (odw op b v r i y o).getLsbD k = (op ++ b ++ v ++ r ++ i ++ y ++ 0#3 ++ o).getLsbD k := rfl
  rw [this]
  iterate 7 rw [BitVec.getLsbD_append]
  simp only [BitVec.getLsbD_zero]
  by_cases h1 : k < 5
  · simp only [h1, if_true]
  · rw [if_neg h1, if_neg h1]
    split_ifs <;> first | omega | rfl

section Fields
variable (op : BitVec 8) (b v r : BitVec 1) (i : BitVec 5) (y : Byte) (o : BitVec 5)

@[simp] theorem odwOffset_odw : odwOffset (odw op b v r i y o) = o := by
  apply BitVec.eq_of_getLsbD_eq
  intro k hk
  rw [odwOffset, BitVec.getLsbD_extractLsb', odw_getLsbD]
  simp [hk]

@[simp] theorem odwByte_odw : odwByte (odw op b v r i y o) = y := by
  apply BitVec.eq_of_getLsbD_eq
  intro k hk
  rw [odwByte, BitVec.getLsbD_extractLsb', odw_getLsbD]
  interval_cases k <;> simp

@[simp] theorem odwPin_odw : odwPin (odw op b v r i y o) = i := by
  apply BitVec.eq_of_getLsbD_eq
  intro k hk
  rw [odwPin, BitVec.getLsbD_extractLsb', odw_getLsbD]
  interval_cases k <;> simp

@[simp] theorem odwBank_odw (b : Bank) : odwBank (odw op (bankCode b) v r i y o) = b := by
  rw [odwBank, odw_getLsbD]; cases b <;> simp [bankCode]

@[simp] theorem odwReg_odw (r : Reg) : odwReg (odw op b v (regCode r) i y o) = r := by
  rw [odwReg, odw_getLsbD]; cases r <;> simp [regCode]

@[simp] theorem odwValue_odw (v : Bool) : odwValue (odw op b (BitVec.ofBool v) r i y o) = v := by
  rw [odwValue, odw_getLsbD]; cases v <;> simp

end Fields

/-! ## Rows -/

theorem row_mask_op : ∀ r ∈ odwRows, r.mask.extractLsb' 24 8 = 0xFF#8 := by decide

/-- No two rows share an operation code. -/
theorem row_unique : ∀ r ∈ odwRows, ∀ r' ∈ odwRows, odwOp r.pattern = odwOp r'.pattern → r = r' := by decide

/-- No two rows name the same operation. -/
theorem row_code_unique : ∀ r ∈ odwRows, ∀ r' ∈ odwRows, r.code = r'.code → r = r' := by decide

theorem odwOp_and (w m : Word) : odwOp (w &&& m) = odwOp w &&& odwOp m := by
  apply BitVec.eq_of_getLsbD_eq
  intro k h
  simp [odwOp, h]

/-- A word that matches a row has the row's operation code. -/
theorem row_op {r : OdwRow} (hr : r ∈ odwRows) {w : Word} (h : w &&& r.mask = r.pattern) :
    odwOp w = odwOp r.pattern := by
  rw [← h, odwOp_and, show odwOp r.mask = 0xFF#8 from row_mask_op r hr]
  apply BitVec.eq_of_getLsbD_eq
  intro k hk
  have : (255#8).getLsbD k = true := by
    rw [show (255#8) = BitVec.allOnes 8 from rfl, BitVec.getLsbD_allOnes]; simpa using hk
  rw [BitVec.getLsbD_and, this, Bool.and_true]

/-- At most one row matches a word, so the search finds any row that does. -/
theorem find_row {r : OdwRow} (hr : r ∈ odwRows) {w : Word} (h : w &&& r.mask = r.pattern) :
    odwRows.find? (fun r => w &&& r.mask == r.pattern) = some r := by
  cases hf : odwRows.find? (fun r => w &&& r.mask == r.pattern) with
  | none => have := List.find?_eq_none.mp hf r hr; simp [h] at this
  | some r' =>
    have hm := List.find?_some hf
    have hr' := List.mem_of_find?_eq_some hf
    simp only [beq_iff_eq] at hm
    rw [row_unique r' hr' r hr ((row_op hr' hm).symm.trans (row_op hr h))]

/-- What a matching row says of a word. -/
theorem classify_row {r : OdwRow} (hr : r ∈ odwRows) {w : Word} (h : w &&& r.mask = r.pattern) :
    classify w = if r.code = .splice ∧ 24 < (odwOffset w).toNat then .error .spliceOffset else .ok r.code := by
  unfold classify; rw [find_row hr h]

/-- A legal word matches the row of its operation, and a SPLICE word's offset is legal. -/
theorem classify_ok {w : Word} {c : Opcode} (h : classify w = .ok c) :
    ∃ r ∈ odwRows, w &&& r.mask = r.pattern ∧ r.code = c ∧ (c = .splice → (odwOffset w).toNat ≤ 24) := by
  unfold classify at h
  split at h
  · rename_i r hf
    have hm := List.find?_some hf
    simp only [beq_iff_eq] at hm
    split at h
    · simp at h
    · rename_i hn
      simp only [Except.ok.injEq] at h
      subst h
      exact ⟨r, List.mem_of_find?_eq_some hf, hm, rfl, fun hc => by
        by_contra hlt; exact hn ⟨hc, by omega⟩⟩
  · split at h <;> simp at h

/-- A bit of a matching word that its row's mask covers. -/
theorem row_bit {w m p : Word} (h : w &&& m = p) (k : Nat) (hk : m.getLsbD k = true) : w.getLsbD k = p.getLsbD k := by
  rw [← h, BitVec.getLsbD_and, hk, Bool.and_true]

/-! ## Numbers in extension words -/

@[simp] theorem wordsOfNat_length (k x : Nat) : (wordsOfNat k x).length = k := by
  induction k generalizing x with
  | zero => rfl
  | succ k ih => simp [wordsOfNat, ih]

/-- A number that fits its words is read back (30_encoding.md R71). -/
theorem natOfWords_wordsOfNat (k x : Nat) (h : x < 2 ^ (32 * k)) : natOfWords (wordsOfNat k x) = x := by
  induction k generalizing x with
  | zero => simp at h; simp [wordsOfNat, natOfWords, h]
  | succ k ih =>
    have h2 : x / 2 ^ 32 < 2 ^ (32 * k) := by
      rw [Nat.div_lt_iff_lt_mul (by norm_num), ← pow_add]
      exact h
    simp only [wordsOfNat, natOfWords, ih _ h2, BitVec.toNat_ofNat]
    omega

theorem natOfWords_lt (ws : List Word) : natOfWords ws < 2 ^ (32 * ws.length) := by
  induction ws with
  | nil => simp [natOfWords]
  | cons w ws ih =>
    have := w.isLt
    have e : 2 ^ (32 * (w :: ws).length) = 2 ^ 32 * 2 ^ (32 * ws.length) := by
      rw [← pow_add]; congr 1; simp; ring
    rw [natOfWords, e]
    nlinarith

/-- Words that hold a number are the words of that number. -/
theorem wordsOfNat_natOfWords (ws : List Word) : wordsOfNat ws.length (natOfWords ws) = ws := by
  induction ws with
  | nil => rfl
  | cons w ws ih =>
    have hw := w.isLt
    have e : (w.toNat + 2 ^ 32 * natOfWords ws) / 2 ^ 32 = natOfWords ws := by omega
    have f : BitVec.ofNat 32 (w.toNat + 2 ^ 32 * natOfWords ws) = w := by
      apply BitVec.eq_of_toNat_eq; rw [BitVec.toNat_ofNat]; omega
    simp only [List.length_cons, natOfWords, wordsOfNat, e, f, ih]

end Sys2Proof
end

