-- ==== Sys2Proof/Laws/Words.lean ====
section
/-! SUPPORT. The byte swap, the pin masks and the splice field bit by bit. -/

namespace Sys2Proof

/-- The bit of the raw word that the byte swap puts at bit `j`. -/
def swapBit (j : Nat) : Nat := 8 * (3 - j / 8) + j % 8

theorem bswap32_getLsbD (x : Word) {j : Nat} (h : j < 32) : (bswap32 x).getLsbD j = x.getLsbD (swapBit j) := by
  have key : ∀ k : Fin 32, (bswap32 x).getLsbD k = x.getLsbD (swapBit k) := by
    intro k
    fin_cases k <;> simp only [bswap32, BitVec.getLsbD_append, BitVec.getLsbD_extractLsb'] <;> rfl
  exact key ⟨j, h⟩

theorem swapBit_lt {j : Nat} (h : j < 32) : swapBit j < 32 := by unfold swapBit; omega

theorem swapBit_swapBit {j : Nat} (h : j < 32) : swapBit (swapBit j) = j := by unfold swapBit; omega

@[simp] theorem bswap32_bswap32 (x : Word) : bswap32 (bswap32 x) = x := by
  apply BitVec.eq_of_getLsbD_eq
  intro j h
  rw [bswap32_getLsbD _ h, bswap32_getLsbD _ (swapBit_lt h), swapBit_swapBit h]

theorem bswap32_or (x y : Word) : bswap32 (x ||| y) = bswap32 x ||| bswap32 y := by
  apply BitVec.eq_of_getLsbD_eq
  intro j h
  simp only [bswap32_getLsbD _ h, BitVec.getLsbD_or]

theorem bswap32_and (x y : Word) : bswap32 (x &&& y) = bswap32 x &&& bswap32 y := by
  apply BitVec.eq_of_getLsbD_eq
  intro j h
  simp only [bswap32_getLsbD _ h, BitVec.getLsbD_and]

theorem bswap32_not (x : Word) : bswap32 (~~~x) = ~~~(bswap32 x) := by
  apply BitVec.eq_of_getLsbD_eq
  intro j h
  simp only [bswap32_getLsbD _ h, BitVec.getLsbD_not, h, swapBit_lt h]

/-- The raw mask of a pin is the byte-swapped logical mask (20_memory.md R52). -/
theorem bswap32_lmask : ∀ i : BitVec 5, bswap32 (lmask i) = rmask i := by decide

theorem rbit_lt (i : BitVec 5) : rbit i < 32 := by have := i.isLt; unfold rbit; omega

theorem rbit_eq_swapBit : ∀ i : BitVec 5, rbit i = swapBit (31 - i.toNat) := by decide

theorem rbit_injective {i j : BitVec 5} (h : rbit i = rbit j) : i = j := by
  apply BitVec.eq_of_toNat_eq
  have hi := i.isLt
  have hj := j.isLt
  unfold rbit at h
  omega

/-- Every raw bit is the bit of one pin. -/
theorem exists_rbit {k : Nat} (h : k < 32) : ∃ i : BitVec 5, rbit i = k := by
  refine ⟨BitVec.ofNat 5 (31 - swapBit k), ?_⟩
  have h' := swapBit_lt h
  rw [rbit_eq_swapBit, BitVec.toNat_ofNat]
  have : (31 - swapBit k) % 2 ^ 5 = 31 - swapBit k := by omega
  rw [this, show 31 - (31 - swapBit k) = swapBit k by omega, swapBit_swapBit h]

/-- A pin of the logical word is its raw bit (20_memory.md R52). -/
theorem pinOf_bswap32 (x : Word) (i : BitVec 5) : pinOf (bswap32 x) i = x.getLsbD (rbit i) := by
  have hi := i.isLt
  unfold pinOf
  rw [bswap32_getLsbD _ (by omega), rbit_eq_swapBit]

theorem rmask_getLsbD (i : BitVec 5) (k : Nat) : (rmask i).getLsbD k = decide (k = rbit i) := by
  have hr := rbit_lt i
  simp only [rmask, BitVec.getLsbD_shiftLeft, BitVec.getLsbD_one]
  by_cases hk : k = rbit i
  · simp [hk, hr]
  · simp only [hk, decide_false]
    by_cases hlt : k < rbit i
    · simp [hlt]
    · simp only [hlt]; simp; omega

theorem lmask_getLsbD (i : BitVec 5) {k : Nat} (h : k < 32) : (lmask i).getLsbD k = decide (k = 31 - i.toNat) := by
  have hi := i.isLt
  simp only [lmask, BitVec.getLsbD_shiftLeft, BitVec.getLsbD_one]
  by_cases hk : k = 31 - i.toNat
  · simp [hk]; omega
  · simp only [hk, decide_false]
    by_cases hlt : k < 31 - i.toNat
    · simp [hlt]
    · simp only [hlt]; simp; omega

/-- Setting or clearing a pin of the logical word is setting or clearing its raw bit (41_port_primitives.md R88). -/
theorem bswap32_withPin (x : Word) (i : BitVec 5) (v : Bool) :
    bswap32 (withPin (bswap32 x) i v) = if v then x ||| rmask i else x &&& ~~~(rmask i) := by
  cases v <;> simp [withPin, bswap32_or, bswap32_and, bswap32_not, bswap32_lmask]

/-- The two writes of a pulse, raw (41_port_primitives.md R90). -/
theorem bswap32_withPin_twice (x : Word) (i : BitVec 5) :
    bswap32 (withPin (withPin (bswap32 x) i false) i true) = x ||| rmask i := by
  simp only [withPin, Bool.false_eq_true, if_false, if_true, bswap32_or, bswap32_and, bswap32_not, bswap32_lmask,
    bswap32_bswap32]
  apply BitVec.eq_of_getLsbD_eq
  intro k h
  simp only [BitVec.getLsbD_or, BitVec.getLsbD_and, BitVec.getLsbD_not, h, decide_true, Bool.true_and]
  cases x.getLsbD k <;> cases (rmask i).getLsbD k <;> rfl

/-! ## The splice field -/

theorem smask_getLsbD {o k : Nat} (ho : o ≤ 24) (h : k < 32) :
    (smask o).getLsbD k = decide (24 - o ≤ k ∧ k < 32 - o) := by
  have e : (0xFF#32 : Word) = BitVec.ofNat 32 (2 ^ 8 - 1) := rfl
  simp only [smask, BitVec.getLsbD_shiftLeft, e, BitVec.getLsbD_ofNat, Nat.testBit_two_pow_sub_one]
  by_cases h1 : k < 24 - o
  · simp [h1]; omega
  · have h2 : k - (24 - o) < 32 := by omega
    simp only [h, h1, h2, decide_true, decide_false, Bool.not_false, Bool.true_and]
    exact decide_eq_decide.mpr (by omega)

/-- The spliced word, bit by bit (30_encoding.md R63). -/
theorem splice_getLsbD (w : Word) {o k : Nat} (y : Byte) (ho : o ≤ 24) (h : k < 32) :
    (splice w o y).getLsbD k =
      if 24 - o ≤ k ∧ k < 32 - o then y.getLsbD (k - (24 - o)) else w.getLsbD k := by
  simp only [splice, BitVec.getLsbD_or, BitVec.getLsbD_and, BitVec.getLsbD_not, smask_getLsbD ho h,
    BitVec.getLsbD_shiftLeft, BitVec.getLsbD_setWidth, h]
  by_cases h1 : 24 - o ≤ k ∧ k < 32 - o
  · have h2 : ¬ k < 24 - o := by omega
    have h3 : k - (24 - o) < 32 := by omega
    simp [h1, h2, h3]
  · simp only [h1, if_false]
    by_cases h2 : k < 24 - o
    · simp [h2]
    · have h3 : y.getLsbD (k - (24 - o)) = false := BitVec.getLsbD_of_ge _ _ (by omega)
      simp [h3]

/-- The spliced word, pin by pin: the byte's bit 7 at pin `o` (30_encoding.md R63). -/
theorem splice_pinOf (w : Word) {o : Nat} (y : Byte) (j : BitVec 5) (ho : o ≤ 24) :
    pinOf (splice w o y) j =
      if o ≤ j.toNat ∧ j.toNat < o + 8 then y.getLsbD (7 - (j.toNat - o)) else pinOf w j := by
  have hj := j.isLt
  unfold pinOf
  rw [splice_getLsbD w y ho (by omega)]
  by_cases h : o ≤ j.toNat ∧ j.toNat < o + 8
  · rw [if_pos h, if_pos (by omega)]
    congr 1; omega
  · rw [if_neg h, if_neg (by omega)]

end Sys2Proof
end

