-- ==== Sys2Proof/Laws/Profile.lean ====
section
/-! SUPPORT. What a well-formed profile gives: distinct pins, a bus inside the bank, and the masks of SETUP pin by pin. -/

namespace Sys2Proof

/-- The six pin indices of a well-formed profile are distinct (00_scope.md R9). -/
theorem pin_distinct {q : Params} {p : Profile} (h : p.wellFormed q = true) : p.pins.Nodup := by
  simp only [Profile.wellFormed, Bool.and_eq_true, decide_eq_true_eq] at h
  exact h.1.1.1.1.2

theorem dataOut8 : ∀ s : BitVec 5, s.toNat + 8 - 1 < 32 → ∀ i : BitVec 5,
   (((1#32 <<< 8) - 1#32) <<< (32 - s.toNat - 8)).getLsbD (31 - i.toNat) =
                decide (s.toNat ≤ i.toNat ∧ i.toNat < s.toNat + 8) := by decide
theorem dataOut16 : ∀ s : BitVec 5, s.toNat + 16 - 1 < 32 → ∀ i : BitVec 5,
   (((1#32 <<< 16) - 1#32) <<< (32 - s.toNat - 16)).getLsbD (31 - i.toNat) =
                decide (s.toNat ≤ i.toNat ∧ i.toNat < s.toNat + 16) := by decide

/-- The width and the place of the data bus (00_scope.md R9). -/
theorem wf_bus {q : Params} {p : Profile} (h : p.wellFormed q = true) :
    (p.dataWidthBits = 8#5 ∨ p.dataWidthBits = 16#5) ∧ p.dataStartBit.toNat + p.dataWidthBits.toNat - 1 < 32 := by
  simp only [Profile.wellFormed, Bool.and_eq_true, Bool.or_eq_true, beq_iff_eq, decide_eq_true_eq] at h
  exact h.1.1.1.1.1

/-- `dataOut` is the data bus, pin by pin (30_encoding.md R62). -/
theorem pinOf_dataOut {q : Params} {p : Profile} (h : p.wellFormed q = true) (j : BitVec 5) :
    pinOf p.dataOut j = Machine.onBus p j := by
  obtain ⟨hw, hb⟩ := wf_bus h
  unfold pinOf Profile.dataOut Machine.onBus
  rcases hw with hw | hw <;> rw [hw] at hb ⊢
  · rw [show (8#5).toNat = 8 from rfl] at *
    rw [dataOut8 _ hb, Bool.decide_and]
  · rw [show (16#5).toNat = 16 from rfl] at *
    rw [dataOut16 _ hb, Bool.decide_and]

theorem pinOf_lmask (i j : BitVec 5) : pinOf (lmask i) j = decide (j = i) := by
  unfold pinOf
  have hi := i.isLt
  have hj := j.isLt
  rw [lmask_getLsbD i (by omega)]
  congr 1
  rw [eq_iff_iff, ← BitVec.toNat_inj]; omega

theorem pinOf_or (x y : Word) (j : BitVec 5) : pinOf (x ||| y) j = (pinOf x j || pinOf y j) := by
  simp [pinOf]

/-- `ctrlOut`, pin by pin (30_encoding.md R62). -/
theorem pinOf_ctrlOut (p : Profile) (j : BitVec 5) : pinOf p.ctrlOut j =
    decide (j = p.pinProgram ∨ j = p.pinCsi ∨ j = p.pinRdwr ∨ j = p.pinClock) := by
  simp only [Profile.ctrlOut, pinOf_or, pinOf_lmask, Bool.decide_or, Bool.or_assoc]

/-- `ctrlIn`, pin by pin (30_encoding.md R62). -/
theorem pinOf_ctrlIn (p : Profile) (j : BitVec 5) : pinOf p.ctrlIn j = decide (j = p.pinInit ∨ j = p.pinDone) := by
  simp only [Profile.ctrlIn, pinOf_or, pinOf_lmask, Bool.decide_or]

/-- INIT and DONE are none of the four output pins (00_scope.md R9). -/
theorem inputs_distinct {q : Params} {p : Profile} (h : p.wellFormed q = true) :
    ¬ (p.pinInit = p.pinProgram ∨ p.pinInit = p.pinCsi ∨ p.pinInit = p.pinRdwr ∨ p.pinInit = p.pinClock) ∧
    ¬ (p.pinDone = p.pinProgram ∨ p.pinDone = p.pinCsi ∨ p.pinDone = p.pinRdwr ∨ p.pinDone = p.pinClock) := by
  have nd := pin_distinct h
  simp only [Profile.pins, List.nodup_cons, List.mem_cons, List.not_mem_nil, or_false, not_or] at nd
  simp only [not_or]
  exact ⟨⟨fun e => nd.1.1 e.symm, nd.2.1.1, nd.2.1.2.1, nd.2.1.2.2.1⟩,
    ⟨fun e => nd.1.2.2.2.2 e.symm, fun e => nd.2.2.1.2.2 e.symm, fun e => nd.2.2.2.1.2 e.symm,
      fun e => nd.2.2.2.2.1 e.symm⟩⟩

/-- The four output pins are distinct (00_scope.md R9). -/
theorem outputs_distinct {q : Params} {p : Profile} (h : p.wellFormed q = true) :
    p.pinProgram ≠ p.pinCsi ∧ p.pinProgram ≠ p.pinRdwr ∧ p.pinProgram ≠ p.pinClock ∧ p.pinCsi ≠ p.pinRdwr ∧
    p.pinCsi ≠ p.pinClock ∧ p.pinRdwr ≠ p.pinClock := by
  have nd := pin_distinct h
  simp only [Profile.pins, List.nodup_cons, List.mem_cons, List.not_mem_nil, or_false, not_or] at nd
  exact ⟨nd.1.2.1, nd.1.2.2.1, nd.1.2.2.2.1, nd.2.2.1.1, nd.2.2.1.2.1, nd.2.2.2.1.1⟩

end Sys2Proof
end

