-- ==== Sys2Proof/Laws/State.lean ====
section
/-! SUPPORT. One lemma per field per update of the shared operations: what each operation leaves unchanged, and what it
writes, by rfl. -/

namespace Sys2Proof.Machine

/-! ## State.afterRead -/

@[simp] theorem State.afterRead_banks (b : Bank) (r : Reg) (s : State) : (s.afterRead b r).banks = s.banks := rfl
@[simp] theorem State.afterRead_profile (b : Bank) (r : Reg) (s : State) : (s.afterRead b r).profile = s.profile := rfl
@[simp] theorem State.afterRead_cfgv (b : Bank) (r : Reg) (s : State) : (s.afterRead b r).cfgv = s.cfgv := rfl
@[simp] theorem State.afterRead_w (b : Bank) (r : Reg) (s : State) : (s.afterRead b r).w = s.w := rfl
@[simp] theorem State.afterRead_iwb (b : Bank) (r : Reg) (s : State) : (s.afterRead b r).iwb = s.iwb := rfl
@[simp] theorem State.afterRead_dwb (b : Bank) (r : Reg) (s : State) : (s.afterRead b r).dwb = s.dwb := rfl
@[simp] theorem State.afterRead_pay (b : Bank) (r : Reg) (s : State) : (s.afterRead b r).pay = s.pay := rfl
@[simp] theorem State.afterRead_n (b : Bank) (r : Reg) (s : State) : (s.afterRead b r).n = s.n := rfl
@[simp] theorem State.afterRead_st (b : Bank) (r : Reg) (s : State) : (s.afterRead b r).st = s.st := rfl
@[simp] theorem State.afterRead_ph (b : Bank) (r : Reg) (s : State) : (s.afterRead b r).ph = s.ph := rfl
@[simp] theorem State.afterRead_ro (b : Bank) (r : Reg) (s : State) : (s.afterRead b r).ro = s.ro := rfl
@[simp] theorem State.afterRead_reason (b : Bank) (r : Reg) (s : State) : (s.afterRead b r).reason = s.reason := rfl
@[simp] theorem State.afterRead_poll (b : Bank) (r : Reg) (s : State) : (s.afterRead b r).poll = s.poll := rfl
@[simp] theorem State.afterRead_idx (b : Bank) (r : Reg) (s : State) : (s.afterRead b r).idx = s.idx := rfl
@[simp] theorem State.afterRead_scnt (b : Bank) (r : Reg) (s : State) : (s.afterRead b r).scnt = s.scnt := rfl
@[simp] theorem State.afterRead_ww (b : Bank) (r : Reg) (s : State) : (s.afterRead b r).ww = s.ww := rfl
@[simp] theorem State.afterRead_rv (b : Bank) (r : Reg) (s : State) : (s.afterRead b r).rv = s.rv := rfl
@[simp] theorem State.afterRead_trace (b : Bank) (r : Reg) (s : State) : (s.afterRead b r).trace = s.trace ++ [.read (s.addr b r) (s.rawRead b r)] := rfl
@[simp] theorem State.afterRead_refused (b : Bank) (r : Reg) (s : State) : (s.afterRead b r).refused = s.refused := rfl
@[simp] theorem State.afterRead_refusedFor (b : Bank) (r : Reg) (s : State) : (s.afterRead b r).refusedFor = s.refusedFor := rfl
@[simp] theorem State.afterRead_fault (b : Bank) (r : Reg) (s : State) : (s.afterRead b r).fault = s.fault := rfl
@[simp] theorem State.afterRead_resp (b : Bank) (r : Reg) (s : State) : (s.afterRead b r).resp = s.resp := rfl
@[simp] theorem State.afterRead_params (b : Bank) (r : Reg) (s : State) : (s.afterRead b r).params = s.params := rfl
@[simp] theorem State.afterRead_env (b : Bank) (r : Reg) (s : State) : (s.afterRead b r).env = s.env.afterRead r := rfl
@[simp] theorem State.afterRead_hosts (b : Bank) (r : Reg) (s : State) : (s.afterRead b r).hosts = s.hosts := rfl
@[simp] theorem State.afterRead_held (b : Bank) (r : Reg) (s : State) : (s.afterRead b r).held = s.held := rfl
@[simp] theorem State.afterRead_runLock (b : Bank) (r : Reg) (s : State) : (s.afterRead b r).runLock = s.runLock := rfl

/-! ## State.memWrite -/

@[simp] theorem State.memWrite_banks (b : Bank) (r : Reg) (v : Word) (s : State) : (s.memWrite b r v).banks = s.banks.write b r v := rfl
@[simp] theorem State.memWrite_profile (b : Bank) (r : Reg) (v : Word) (s : State) : (s.memWrite b r v).profile = s.profile := rfl
@[simp] theorem State.memWrite_cfgv (b : Bank) (r : Reg) (v : Word) (s : State) : (s.memWrite b r v).cfgv = s.cfgv := rfl
@[simp] theorem State.memWrite_w (b : Bank) (r : Reg) (v : Word) (s : State) : (s.memWrite b r v).w = s.w := rfl
@[simp] theorem State.memWrite_iwb (b : Bank) (r : Reg) (v : Word) (s : State) : (s.memWrite b r v).iwb = s.iwb := rfl
@[simp] theorem State.memWrite_dwb (b : Bank) (r : Reg) (v : Word) (s : State) : (s.memWrite b r v).dwb = s.dwb := rfl
@[simp] theorem State.memWrite_pay (b : Bank) (r : Reg) (v : Word) (s : State) : (s.memWrite b r v).pay = s.pay := rfl
@[simp] theorem State.memWrite_n (b : Bank) (r : Reg) (v : Word) (s : State) : (s.memWrite b r v).n = s.n := rfl
@[simp] theorem State.memWrite_st (b : Bank) (r : Reg) (v : Word) (s : State) : (s.memWrite b r v).st = s.st := rfl
@[simp] theorem State.memWrite_ph (b : Bank) (r : Reg) (v : Word) (s : State) : (s.memWrite b r v).ph = s.ph := rfl
@[simp] theorem State.memWrite_ro (b : Bank) (r : Reg) (v : Word) (s : State) : (s.memWrite b r v).ro = s.ro := rfl
@[simp] theorem State.memWrite_reason (b : Bank) (r : Reg) (v : Word) (s : State) : (s.memWrite b r v).reason = s.reason := rfl
@[simp] theorem State.memWrite_poll (b : Bank) (r : Reg) (v : Word) (s : State) : (s.memWrite b r v).poll = s.poll := rfl
@[simp] theorem State.memWrite_idx (b : Bank) (r : Reg) (v : Word) (s : State) : (s.memWrite b r v).idx = s.idx := rfl
@[simp] theorem State.memWrite_scnt (b : Bank) (r : Reg) (v : Word) (s : State) : (s.memWrite b r v).scnt = s.scnt := rfl
@[simp] theorem State.memWrite_ww (b : Bank) (r : Reg) (v : Word) (s : State) : (s.memWrite b r v).ww = s.ww := rfl
@[simp] theorem State.memWrite_rv (b : Bank) (r : Reg) (v : Word) (s : State) : (s.memWrite b r v).rv = s.rv := rfl
@[simp] theorem State.memWrite_trace (b : Bank) (r : Reg) (v : Word) (s : State) : (s.memWrite b r v).trace = s.trace ++ [.write (s.addr b r) v] := rfl
@[simp] theorem State.memWrite_refused (b : Bank) (r : Reg) (v : Word) (s : State) : (s.memWrite b r v).refused = s.refused := rfl
@[simp] theorem State.memWrite_refusedFor (b : Bank) (r : Reg) (v : Word) (s : State) : (s.memWrite b r v).refusedFor = s.refusedFor := rfl
@[simp] theorem State.memWrite_fault (b : Bank) (r : Reg) (v : Word) (s : State) : (s.memWrite b r v).fault = s.fault := rfl
@[simp] theorem State.memWrite_resp (b : Bank) (r : Reg) (v : Word) (s : State) : (s.memWrite b r v).resp = s.resp := rfl
@[simp] theorem State.memWrite_params (b : Bank) (r : Reg) (v : Word) (s : State) : (s.memWrite b r v).params = s.params := rfl
@[simp] theorem State.memWrite_env (b : Bank) (r : Reg) (v : Word) (s : State) : (s.memWrite b r v).env = s.env := rfl
@[simp] theorem State.memWrite_hosts (b : Bank) (r : Reg) (v : Word) (s : State) : (s.memWrite b r v).hosts = s.hosts := rfl
@[simp] theorem State.memWrite_held (b : Bank) (r : Reg) (v : Word) (s : State) : (s.memWrite b r v).held = s.held := rfl
@[simp] theorem State.memWrite_runLock (b : Bank) (r : Reg) (v : Word) (s : State) : (s.memWrite b r v).runLock = s.runLock := rfl

/-! ## State.setBit -/

@[simp] theorem State.setBit_profile (b : Bank) (i : BitVec 5) (v : Bool) (s : State) : (s.setBit b i v).profile = s.profile := rfl
@[simp] theorem State.setBit_cfgv (b : Bank) (i : BitVec 5) (v : Bool) (s : State) : (s.setBit b i v).cfgv = s.cfgv := rfl
@[simp] theorem State.setBit_w (b : Bank) (i : BitVec 5) (v : Bool) (s : State) : (s.setBit b i v).w = s.w := rfl
@[simp] theorem State.setBit_iwb (b : Bank) (i : BitVec 5) (v : Bool) (s : State) : (s.setBit b i v).iwb = s.iwb := rfl
@[simp] theorem State.setBit_dwb (b : Bank) (i : BitVec 5) (v : Bool) (s : State) : (s.setBit b i v).dwb = s.dwb := rfl
@[simp] theorem State.setBit_pay (b : Bank) (i : BitVec 5) (v : Bool) (s : State) : (s.setBit b i v).pay = s.pay := rfl
@[simp] theorem State.setBit_n (b : Bank) (i : BitVec 5) (v : Bool) (s : State) : (s.setBit b i v).n = s.n := rfl
@[simp] theorem State.setBit_st (b : Bank) (i : BitVec 5) (v : Bool) (s : State) : (s.setBit b i v).st = s.st := rfl
@[simp] theorem State.setBit_ph (b : Bank) (i : BitVec 5) (v : Bool) (s : State) : (s.setBit b i v).ph = s.ph := rfl
@[simp] theorem State.setBit_ro (b : Bank) (i : BitVec 5) (v : Bool) (s : State) : (s.setBit b i v).ro = s.ro := rfl
@[simp] theorem State.setBit_reason (b : Bank) (i : BitVec 5) (v : Bool) (s : State) : (s.setBit b i v).reason = s.reason := rfl
@[simp] theorem State.setBit_poll (b : Bank) (i : BitVec 5) (v : Bool) (s : State) : (s.setBit b i v).poll = s.poll := rfl
@[simp] theorem State.setBit_idx (b : Bank) (i : BitVec 5) (v : Bool) (s : State) : (s.setBit b i v).idx = s.idx := rfl
@[simp] theorem State.setBit_scnt (b : Bank) (i : BitVec 5) (v : Bool) (s : State) : (s.setBit b i v).scnt = s.scnt := rfl
@[simp] theorem State.setBit_ww (b : Bank) (i : BitVec 5) (v : Bool) (s : State) : (s.setBit b i v).ww = s.ww := rfl
@[simp] theorem State.setBit_rv (b : Bank) (i : BitVec 5) (v : Bool) (s : State) : (s.setBit b i v).rv = s.rv := rfl
@[simp] theorem State.setBit_refused (b : Bank) (i : BitVec 5) (v : Bool) (s : State) : (s.setBit b i v).refused = s.refused := rfl
@[simp] theorem State.setBit_refusedFor (b : Bank) (i : BitVec 5) (v : Bool) (s : State) : (s.setBit b i v).refusedFor = s.refusedFor := rfl
@[simp] theorem State.setBit_fault (b : Bank) (i : BitVec 5) (v : Bool) (s : State) : (s.setBit b i v).fault = s.fault := rfl
@[simp] theorem State.setBit_resp (b : Bank) (i : BitVec 5) (v : Bool) (s : State) : (s.setBit b i v).resp = s.resp := rfl
@[simp] theorem State.setBit_params (b : Bank) (i : BitVec 5) (v : Bool) (s : State) : (s.setBit b i v).params = s.params := rfl
@[simp] theorem State.setBit_env (b : Bank) (i : BitVec 5) (v : Bool) (s : State) : (s.setBit b i v).env = s.env.afterRead .dat := rfl
@[simp] theorem State.setBit_hosts (b : Bank) (i : BitVec 5) (v : Bool) (s : State) : (s.setBit b i v).hosts = s.hosts := rfl
@[simp] theorem State.setBit_held (b : Bank) (i : BitVec 5) (v : Bool) (s : State) : (s.setBit b i v).held = s.held := rfl
@[simp] theorem State.setBit_runLock (b : Bank) (i : BitVec 5) (v : Bool) (s : State) : (s.setBit b i v).runLock = s.runLock := rfl

/-! ## State.pulse -/

@[simp] theorem State.pulse_profile (b : Bank) (i : BitVec 5) (s : State) : (s.pulse b i).profile = s.profile := rfl
@[simp] theorem State.pulse_cfgv (b : Bank) (i : BitVec 5) (s : State) : (s.pulse b i).cfgv = s.cfgv := rfl
@[simp] theorem State.pulse_w (b : Bank) (i : BitVec 5) (s : State) : (s.pulse b i).w = s.w := rfl
@[simp] theorem State.pulse_iwb (b : Bank) (i : BitVec 5) (s : State) : (s.pulse b i).iwb = s.iwb := rfl
@[simp] theorem State.pulse_dwb (b : Bank) (i : BitVec 5) (s : State) : (s.pulse b i).dwb = s.dwb := rfl
@[simp] theorem State.pulse_pay (b : Bank) (i : BitVec 5) (s : State) : (s.pulse b i).pay = s.pay := rfl
@[simp] theorem State.pulse_n (b : Bank) (i : BitVec 5) (s : State) : (s.pulse b i).n = s.n := rfl
@[simp] theorem State.pulse_st (b : Bank) (i : BitVec 5) (s : State) : (s.pulse b i).st = s.st := rfl
@[simp] theorem State.pulse_ph (b : Bank) (i : BitVec 5) (s : State) : (s.pulse b i).ph = s.ph := rfl
@[simp] theorem State.pulse_ro (b : Bank) (i : BitVec 5) (s : State) : (s.pulse b i).ro = s.ro := rfl
@[simp] theorem State.pulse_reason (b : Bank) (i : BitVec 5) (s : State) : (s.pulse b i).reason = s.reason := rfl
@[simp] theorem State.pulse_poll (b : Bank) (i : BitVec 5) (s : State) : (s.pulse b i).poll = s.poll := rfl
@[simp] theorem State.pulse_idx (b : Bank) (i : BitVec 5) (s : State) : (s.pulse b i).idx = s.idx := rfl
@[simp] theorem State.pulse_scnt (b : Bank) (i : BitVec 5) (s : State) : (s.pulse b i).scnt = s.scnt := rfl
@[simp] theorem State.pulse_ww (b : Bank) (i : BitVec 5) (s : State) : (s.pulse b i).ww = s.ww := rfl
@[simp] theorem State.pulse_rv (b : Bank) (i : BitVec 5) (s : State) : (s.pulse b i).rv = s.rv := rfl
@[simp] theorem State.pulse_refused (b : Bank) (i : BitVec 5) (s : State) : (s.pulse b i).refused = s.refused := rfl
@[simp] theorem State.pulse_refusedFor (b : Bank) (i : BitVec 5) (s : State) : (s.pulse b i).refusedFor = s.refusedFor := rfl
@[simp] theorem State.pulse_fault (b : Bank) (i : BitVec 5) (s : State) : (s.pulse b i).fault = s.fault := rfl
@[simp] theorem State.pulse_resp (b : Bank) (i : BitVec 5) (s : State) : (s.pulse b i).resp = s.resp := rfl
@[simp] theorem State.pulse_params (b : Bank) (i : BitVec 5) (s : State) : (s.pulse b i).params = s.params := rfl
@[simp] theorem State.pulse_env (b : Bank) (i : BitVec 5) (s : State) : (s.pulse b i).env = s.env.afterRead .dat := rfl
@[simp] theorem State.pulse_hosts (b : Bank) (i : BitVec 5) (s : State) : (s.pulse b i).hosts = s.hosts := rfl
@[simp] theorem State.pulse_held (b : Bank) (i : BitVec 5) (s : State) : (s.pulse b i).held = s.held := rfl
@[simp] theorem State.pulse_runLock (b : Bank) (i : BitVec 5) (s : State) : (s.pulse b i).runLock = s.runLock := rfl

/-! ## State.setDirection -/

@[simp] theorem State.setDirection_profile (b : Bank) (o i : Word) (s : State) : (s.setDirection b o i).profile = s.profile := rfl
@[simp] theorem State.setDirection_cfgv (b : Bank) (o i : Word) (s : State) : (s.setDirection b o i).cfgv = s.cfgv := rfl
@[simp] theorem State.setDirection_w (b : Bank) (o i : Word) (s : State) : (s.setDirection b o i).w = s.w := rfl
@[simp] theorem State.setDirection_iwb (b : Bank) (o i : Word) (s : State) : (s.setDirection b o i).iwb = s.iwb := rfl
@[simp] theorem State.setDirection_dwb (b : Bank) (o i : Word) (s : State) : (s.setDirection b o i).dwb = s.dwb := rfl
@[simp] theorem State.setDirection_pay (b : Bank) (o i : Word) (s : State) : (s.setDirection b o i).pay = s.pay := rfl
@[simp] theorem State.setDirection_n (b : Bank) (o i : Word) (s : State) : (s.setDirection b o i).n = s.n := rfl
@[simp] theorem State.setDirection_st (b : Bank) (o i : Word) (s : State) : (s.setDirection b o i).st = s.st := rfl
@[simp] theorem State.setDirection_ph (b : Bank) (o i : Word) (s : State) : (s.setDirection b o i).ph = s.ph := rfl
@[simp] theorem State.setDirection_ro (b : Bank) (o i : Word) (s : State) : (s.setDirection b o i).ro = s.ro := rfl
@[simp] theorem State.setDirection_reason (b : Bank) (o i : Word) (s : State) : (s.setDirection b o i).reason = s.reason := rfl
@[simp] theorem State.setDirection_poll (b : Bank) (o i : Word) (s : State) : (s.setDirection b o i).poll = s.poll := rfl
@[simp] theorem State.setDirection_idx (b : Bank) (o i : Word) (s : State) : (s.setDirection b o i).idx = s.idx := rfl
@[simp] theorem State.setDirection_scnt (b : Bank) (o i : Word) (s : State) : (s.setDirection b o i).scnt = s.scnt := rfl
@[simp] theorem State.setDirection_ww (b : Bank) (o i : Word) (s : State) : (s.setDirection b o i).ww = s.ww := rfl
@[simp] theorem State.setDirection_rv (b : Bank) (o i : Word) (s : State) : (s.setDirection b o i).rv = s.rv := rfl
@[simp] theorem State.setDirection_refused (b : Bank) (o i : Word) (s : State) : (s.setDirection b o i).refused = s.refused := rfl
@[simp] theorem State.setDirection_refusedFor (b : Bank) (o i : Word) (s : State) : (s.setDirection b o i).refusedFor = s.refusedFor := rfl
@[simp] theorem State.setDirection_fault (b : Bank) (o i : Word) (s : State) : (s.setDirection b o i).fault = s.fault := rfl
@[simp] theorem State.setDirection_resp (b : Bank) (o i : Word) (s : State) : (s.setDirection b o i).resp = s.resp := rfl
@[simp] theorem State.setDirection_params (b : Bank) (o i : Word) (s : State) : (s.setDirection b o i).params = s.params := rfl
@[simp] theorem State.setDirection_env (b : Bank) (o i : Word) (s : State) : (s.setDirection b o i).env = s.env.afterRead .dir := rfl
@[simp] theorem State.setDirection_hosts (b : Bank) (o i : Word) (s : State) : (s.setDirection b o i).hosts = s.hosts := rfl
@[simp] theorem State.setDirection_held (b : Bank) (o i : Word) (s : State) : (s.setDirection b o i).held = s.held := rfl
@[simp] theorem State.setDirection_runLock (b : Bank) (o i : Word) (s : State) : (s.setDirection b o i).runLock = s.runLock := rfl

/-! ## State.respond -/

@[simp] theorem State.respond_banks (v : Word) (s : State) : (s.respond v).banks = s.banks := rfl
@[simp] theorem State.respond_profile (v : Word) (s : State) : (s.respond v).profile = s.profile := rfl
@[simp] theorem State.respond_cfgv (v : Word) (s : State) : (s.respond v).cfgv = s.cfgv := rfl
@[simp] theorem State.respond_w (v : Word) (s : State) : (s.respond v).w = s.w := rfl
@[simp] theorem State.respond_iwb (v : Word) (s : State) : (s.respond v).iwb = s.iwb := rfl
@[simp] theorem State.respond_dwb (v : Word) (s : State) : (s.respond v).dwb = s.dwb := rfl
@[simp] theorem State.respond_pay (v : Word) (s : State) : (s.respond v).pay = s.pay := rfl
@[simp] theorem State.respond_n (v : Word) (s : State) : (s.respond v).n = s.n := rfl
@[simp] theorem State.respond_st (v : Word) (s : State) : (s.respond v).st = s.st := rfl
@[simp] theorem State.respond_ph (v : Word) (s : State) : (s.respond v).ph = s.ph := rfl
@[simp] theorem State.respond_ro (v : Word) (s : State) : (s.respond v).ro = s.ro := rfl
@[simp] theorem State.respond_reason (v : Word) (s : State) : (s.respond v).reason = s.reason := rfl
@[simp] theorem State.respond_poll (v : Word) (s : State) : (s.respond v).poll = s.poll := rfl
@[simp] theorem State.respond_idx (v : Word) (s : State) : (s.respond v).idx = s.idx := rfl
@[simp] theorem State.respond_scnt (v : Word) (s : State) : (s.respond v).scnt = s.scnt := rfl
@[simp] theorem State.respond_ww (v : Word) (s : State) : (s.respond v).ww = s.ww := rfl
@[simp] theorem State.respond_rv (v : Word) (s : State) : (s.respond v).rv = s.rv := rfl
@[simp] theorem State.respond_trace (v : Word) (s : State) : (s.respond v).trace = s.trace := rfl
@[simp] theorem State.respond_refused (v : Word) (s : State) : (s.respond v).refused = s.refused := rfl
@[simp] theorem State.respond_refusedFor (v : Word) (s : State) : (s.respond v).refusedFor = s.refusedFor := rfl
@[simp] theorem State.respond_fault (v : Word) (s : State) : (s.respond v).fault = s.fault := rfl
@[simp] theorem State.respond_resp (v : Word) (s : State) : (s.respond v).resp = some v := rfl
@[simp] theorem State.respond_params (v : Word) (s : State) : (s.respond v).params = s.params := rfl
@[simp] theorem State.respond_env (v : Word) (s : State) : (s.respond v).env = s.env := rfl
@[simp] theorem State.respond_hosts (v : Word) (s : State) : (s.respond v).hosts = s.hosts := rfl
@[simp] theorem State.respond_held (v : Word) (s : State) : (s.respond v).held = s.held := rfl
@[simp] theorem State.respond_runLock (v : Word) (s : State) : (s.respond v).runLock = s.runLock := rfl

/-! ## State.refuse -/

@[simp] theorem State.refuse_banks (why : RefuseReason) (s : State) : (s.refuse why).banks = s.banks := rfl
@[simp] theorem State.refuse_profile (why : RefuseReason) (s : State) : (s.refuse why).profile = s.profile := rfl
@[simp] theorem State.refuse_cfgv (why : RefuseReason) (s : State) : (s.refuse why).cfgv = s.cfgv := rfl
@[simp] theorem State.refuse_w (why : RefuseReason) (s : State) : (s.refuse why).w = s.w := rfl
@[simp] theorem State.refuse_iwb (why : RefuseReason) (s : State) : (s.refuse why).iwb = s.iwb := rfl
@[simp] theorem State.refuse_dwb (why : RefuseReason) (s : State) : (s.refuse why).dwb = s.dwb := rfl
@[simp] theorem State.refuse_pay (why : RefuseReason) (s : State) : (s.refuse why).pay = s.pay := rfl
@[simp] theorem State.refuse_n (why : RefuseReason) (s : State) : (s.refuse why).n = s.n := rfl
@[simp] theorem State.refuse_st (why : RefuseReason) (s : State) : (s.refuse why).st = s.st := rfl
@[simp] theorem State.refuse_ph (why : RefuseReason) (s : State) : (s.refuse why).ph = s.ph := rfl
@[simp] theorem State.refuse_ro (why : RefuseReason) (s : State) : (s.refuse why).ro = s.ro := rfl
@[simp] theorem State.refuse_reason (why : RefuseReason) (s : State) : (s.refuse why).reason = s.reason := rfl
@[simp] theorem State.refuse_poll (why : RefuseReason) (s : State) : (s.refuse why).poll = s.poll := rfl
@[simp] theorem State.refuse_idx (why : RefuseReason) (s : State) : (s.refuse why).idx = s.idx := rfl
@[simp] theorem State.refuse_scnt (why : RefuseReason) (s : State) : (s.refuse why).scnt = s.scnt := rfl
@[simp] theorem State.refuse_ww (why : RefuseReason) (s : State) : (s.refuse why).ww = s.ww := rfl
@[simp] theorem State.refuse_rv (why : RefuseReason) (s : State) : (s.refuse why).rv = s.rv := rfl
@[simp] theorem State.refuse_trace (why : RefuseReason) (s : State) : (s.refuse why).trace = s.trace := rfl
@[simp] theorem State.refuse_refused (why : RefuseReason) (s : State) : (s.refuse why).refused = true := rfl
@[simp] theorem State.refuse_refusedFor (why : RefuseReason) (s : State) : (s.refuse why).refusedFor = some why := rfl
@[simp] theorem State.refuse_fault (why : RefuseReason) (s : State) : (s.refuse why).fault = s.fault := rfl
@[simp] theorem State.refuse_resp (why : RefuseReason) (s : State) : (s.refuse why).resp = none := rfl
@[simp] theorem State.refuse_params (why : RefuseReason) (s : State) : (s.refuse why).params = s.params := rfl
@[simp] theorem State.refuse_env (why : RefuseReason) (s : State) : (s.refuse why).env = s.env := rfl
@[simp] theorem State.refuse_hosts (why : RefuseReason) (s : State) : (s.refuse why).hosts = s.hosts := rfl
@[simp] theorem State.refuse_held (why : RefuseReason) (s : State) : (s.refuse why).held = s.held := rfl
@[simp] theorem State.refuse_runLock (why : RefuseReason) (s : State) : (s.refuse why).runLock = s.runLock := rfl

/-! ## State.fail -/

@[simp] theorem State.fail_banks (why : Reason) (s : State) : (s.fail why).banks = s.banks := rfl
@[simp] theorem State.fail_profile (why : Reason) (s : State) : (s.fail why).profile = s.profile := rfl
@[simp] theorem State.fail_cfgv (why : Reason) (s : State) : (s.fail why).cfgv = s.cfgv := rfl
@[simp] theorem State.fail_w (why : Reason) (s : State) : (s.fail why).w = s.w := rfl
@[simp] theorem State.fail_iwb (why : Reason) (s : State) : (s.fail why).iwb = s.iwb := rfl
@[simp] theorem State.fail_dwb (why : Reason) (s : State) : (s.fail why).dwb = s.dwb := rfl
@[simp] theorem State.fail_pay (why : Reason) (s : State) : (s.fail why).pay = s.pay := rfl
@[simp] theorem State.fail_n (why : Reason) (s : State) : (s.fail why).n = s.n := rfl
@[simp] theorem State.fail_st (why : Reason) (s : State) : (s.fail why).st = stFailed := rfl
@[simp] theorem State.fail_ph (why : Reason) (s : State) : (s.fail why).ph = false := rfl
@[simp] theorem State.fail_ro (why : Reason) (s : State) : (s.fail why).ro = s.ro := rfl
@[simp] theorem State.fail_reason (why : Reason) (s : State) : (s.fail why).reason = why := rfl
@[simp] theorem State.fail_poll (why : Reason) (s : State) : (s.fail why).poll = s.poll := rfl
@[simp] theorem State.fail_idx (why : Reason) (s : State) : (s.fail why).idx = s.idx := rfl
@[simp] theorem State.fail_scnt (why : Reason) (s : State) : (s.fail why).scnt = s.scnt := rfl
@[simp] theorem State.fail_ww (why : Reason) (s : State) : (s.fail why).ww = s.ww := rfl
@[simp] theorem State.fail_rv (why : Reason) (s : State) : (s.fail why).rv = s.rv := rfl
@[simp] theorem State.fail_trace (why : Reason) (s : State) : (s.fail why).trace = s.trace := rfl
@[simp] theorem State.fail_refused (why : Reason) (s : State) : (s.fail why).refused = s.refused := rfl
@[simp] theorem State.fail_refusedFor (why : Reason) (s : State) : (s.fail why).refusedFor = s.refusedFor := rfl
@[simp] theorem State.fail_fault (why : Reason) (s : State) : (s.fail why).fault = s.fault := rfl
@[simp] theorem State.fail_resp (why : Reason) (s : State) : (s.fail why).resp = s.resp := rfl
@[simp] theorem State.fail_params (why : Reason) (s : State) : (s.fail why).params = s.params := rfl
@[simp] theorem State.fail_env (why : Reason) (s : State) : (s.fail why).env = s.env := rfl
@[simp] theorem State.fail_hosts (why : Reason) (s : State) : (s.fail why).hosts = s.hosts := rfl
@[simp] theorem State.fail_held (why : Reason) (s : State) : (s.fail why).held = s.held := rfl
@[simp] theorem State.fail_runLock (why : Reason) (s : State) : (s.fail why).runLock = s.runLock := rfl

/-! ## State.beginAttempt -/

@[simp] theorem State.beginAttempt_banks (q : Bool) (s : State) : (s.beginAttempt q).banks = s.banks := rfl
@[simp] theorem State.beginAttempt_profile (q : Bool) (s : State) : (s.beginAttempt q).profile = s.profile := rfl
@[simp] theorem State.beginAttempt_cfgv (q : Bool) (s : State) : (s.beginAttempt q).cfgv = s.cfgv := rfl
@[simp] theorem State.beginAttempt_w (q : Bool) (s : State) : (s.beginAttempt q).w = s.w := rfl
@[simp] theorem State.beginAttempt_iwb (q : Bool) (s : State) : (s.beginAttempt q).iwb = s.iwb := rfl
@[simp] theorem State.beginAttempt_dwb (q : Bool) (s : State) : (s.beginAttempt q).dwb = s.dwb := rfl
@[simp] theorem State.beginAttempt_pay (q : Bool) (s : State) : (s.beginAttempt q).pay = s.pay := rfl
@[simp] theorem State.beginAttempt_n (q : Bool) (s : State) : (s.beginAttempt q).n = s.n := rfl
@[simp] theorem State.beginAttempt_st (q : Bool) (s : State) : (s.beginAttempt q).st = stSetup := rfl
@[simp] theorem State.beginAttempt_ph (q : Bool) (s : State) : (s.beginAttempt q).ph = false := rfl
@[simp] theorem State.beginAttempt_ro (q : Bool) (s : State) : (s.beginAttempt q).ro = q := rfl
@[simp] theorem State.beginAttempt_reason (q : Bool) (s : State) : (s.beginAttempt q).reason = .none := rfl
@[simp] theorem State.beginAttempt_poll (q : Bool) (s : State) : (s.beginAttempt q).poll = 0#32 := rfl
@[simp] theorem State.beginAttempt_idx (q : Bool) (s : State) : (s.beginAttempt q).idx = 0#32 := rfl
@[simp] theorem State.beginAttempt_scnt (q : Bool) (s : State) : (s.beginAttempt q).scnt = 0#4 := rfl
@[simp] theorem State.beginAttempt_ww (q : Bool) (s : State) : (s.beginAttempt q).ww = s.ww := rfl
@[simp] theorem State.beginAttempt_rv (q : Bool) (s : State) : (s.beginAttempt q).rv = s.rv := rfl
@[simp] theorem State.beginAttempt_trace (q : Bool) (s : State) : (s.beginAttempt q).trace = s.trace := rfl
@[simp] theorem State.beginAttempt_refused (q : Bool) (s : State) : (s.beginAttempt q).refused = s.refused := rfl
@[simp] theorem State.beginAttempt_refusedFor (q : Bool) (s : State) : (s.beginAttempt q).refusedFor = s.refusedFor := rfl
@[simp] theorem State.beginAttempt_fault (q : Bool) (s : State) : (s.beginAttempt q).fault = s.fault := rfl
@[simp] theorem State.beginAttempt_resp (q : Bool) (s : State) : (s.beginAttempt q).resp = s.resp := rfl
@[simp] theorem State.beginAttempt_params (q : Bool) (s : State) : (s.beginAttempt q).params = s.params := rfl
@[simp] theorem State.beginAttempt_env (q : Bool) (s : State) : (s.beginAttempt q).env = s.env := rfl
@[simp] theorem State.beginAttempt_hosts (q : Bool) (s : State) : (s.beginAttempt q).hosts = s.hosts := rfl
@[simp] theorem State.beginAttempt_held (q : Bool) (s : State) : (s.beginAttempt q).held = s.held := rfl
@[simp] theorem State.beginAttempt_runLock (q : Bool) (s : State) : (s.beginAttempt q).runLock = s.runLock := rfl

/-! ## State.noteFault -/

@[simp] theorem State.noteFault_banks (s : State) : (s.noteFault).banks = s.banks := rfl
@[simp] theorem State.noteFault_profile (s : State) : (s.noteFault).profile = s.profile := rfl
@[simp] theorem State.noteFault_cfgv (s : State) : (s.noteFault).cfgv = s.cfgv := rfl
@[simp] theorem State.noteFault_w (s : State) : (s.noteFault).w = s.w := rfl
@[simp] theorem State.noteFault_iwb (s : State) : (s.noteFault).iwb = s.iwb := rfl
@[simp] theorem State.noteFault_dwb (s : State) : (s.noteFault).dwb = s.dwb := rfl
@[simp] theorem State.noteFault_pay (s : State) : (s.noteFault).pay = s.pay := rfl
@[simp] theorem State.noteFault_n (s : State) : (s.noteFault).n = s.n := rfl
@[simp] theorem State.noteFault_st (s : State) : (s.noteFault).st = s.st := rfl
@[simp] theorem State.noteFault_ph (s : State) : (s.noteFault).ph = s.ph := rfl
@[simp] theorem State.noteFault_ro (s : State) : (s.noteFault).ro = s.ro := rfl
@[simp] theorem State.noteFault_reason (s : State) : (s.noteFault).reason = s.reason := rfl
@[simp] theorem State.noteFault_poll (s : State) : (s.noteFault).poll = s.poll := rfl
@[simp] theorem State.noteFault_idx (s : State) : (s.noteFault).idx = s.idx := rfl
@[simp] theorem State.noteFault_scnt (s : State) : (s.noteFault).scnt = s.scnt := rfl
@[simp] theorem State.noteFault_ww (s : State) : (s.noteFault).ww = s.ww := rfl
@[simp] theorem State.noteFault_rv (s : State) : (s.noteFault).rv = s.rv := rfl
@[simp] theorem State.noteFault_trace (s : State) : (s.noteFault).trace = s.trace := rfl
@[simp] theorem State.noteFault_refused (s : State) : (s.noteFault).refused = s.refused := rfl
@[simp] theorem State.noteFault_refusedFor (s : State) : (s.noteFault).refusedFor = s.refusedFor := rfl
@[simp] theorem State.noteFault_fault (s : State) : (s.noteFault).fault = (s.fault || (decodeSelector s.selector).isNone) := rfl
@[simp] theorem State.noteFault_resp (s : State) : (s.noteFault).resp = s.resp := rfl
@[simp] theorem State.noteFault_params (s : State) : (s.noteFault).params = s.params := rfl
@[simp] theorem State.noteFault_env (s : State) : (s.noteFault).env = s.env := rfl
@[simp] theorem State.noteFault_hosts (s : State) : (s.noteFault).hosts = s.hosts := rfl
@[simp] theorem State.noteFault_held (s : State) : (s.noteFault).held = s.held := rfl
@[simp] theorem State.noteFault_runLock (s : State) : (s.noteFault).runLock = s.runLock := rfl

/-! ## State.ready -/

@[simp] theorem State.ready_banks (s : State) : (s.ready).banks = s.banks := rfl
@[simp] theorem State.ready_profile (s : State) : (s.ready).profile = s.profile := rfl
@[simp] theorem State.ready_cfgv (s : State) : (s.ready).cfgv = s.cfgv := rfl
@[simp] theorem State.ready_w (s : State) : (s.ready).w = s.w := rfl
@[simp] theorem State.ready_iwb (s : State) : (s.ready).iwb = s.iwb := rfl
@[simp] theorem State.ready_dwb (s : State) : (s.ready).dwb = s.dwb := rfl
@[simp] theorem State.ready_pay (s : State) : (s.ready).pay = s.pay := rfl
@[simp] theorem State.ready_n (s : State) : (s.ready).n = s.n := rfl
@[simp] theorem State.ready_st (s : State) : (s.ready).st = s.st := rfl
@[simp] theorem State.ready_ph (s : State) : (s.ready).ph = s.ph := rfl
@[simp] theorem State.ready_ro (s : State) : (s.ready).ro = s.ro := rfl
@[simp] theorem State.ready_reason (s : State) : (s.ready).reason = s.reason := rfl
@[simp] theorem State.ready_poll (s : State) : (s.ready).poll = s.poll := rfl
@[simp] theorem State.ready_idx (s : State) : (s.ready).idx = s.idx := rfl
@[simp] theorem State.ready_scnt (s : State) : (s.ready).scnt = s.scnt := rfl
@[simp] theorem State.ready_ww (s : State) : (s.ready).ww = s.ww := rfl
@[simp] theorem State.ready_rv (s : State) : (s.ready).rv = s.rv := rfl
@[simp] theorem State.ready_trace (s : State) : (s.ready).trace = s.trace := rfl
@[simp] theorem State.ready_refused (s : State) : (s.ready).refused = s.refused := rfl
@[simp] theorem State.ready_refusedFor (s : State) : (s.ready).refusedFor = s.refusedFor := rfl
@[simp] theorem State.ready_resp (s : State) : (s.ready).resp = s.resp := rfl
@[simp] theorem State.ready_params (s : State) : (s.ready).params = s.params := rfl
@[simp] theorem State.ready_env (s : State) : (s.ready).env = s.envAfter := rfl
@[simp] theorem State.ready_hosts (s : State) : (s.ready).hosts = s.hosts := rfl
@[simp] theorem State.ready_held (s : State) : (s.ready).held = s.waiting := rfl
@[simp] theorem State.ready_runLock (s : State) : (s.ready).runLock = s.runLock := rfl

/-! ## The bank registers -/

@[simp] theorem Banks.write_dir_same (k : Banks) (b : Bank) (v : Word) : (k.write b .dir v).dir b = v := by
  cases b <;> rfl
@[simp] theorem Banks.write_dat_same (k : Banks) (b : Bank) (v : Word) : (k.write b .dat v).out b = v := by
  cases b <;> rfl
@[simp] theorem Banks.write_dat_dir (k : Banks) (b c : Bank) (v : Word) : (k.write b .dat v).dir c = k.dir c := by
  cases b <;> cases c <;> rfl
@[simp] theorem Banks.write_dir_out (k : Banks) (b c : Bank) (v : Word) : (k.write b .dir v).out c = k.out c := by
  cases b <;> cases c <;> rfl
theorem Banks.write_dir_other (k : Banks) {b c : Bank} (v : Word) (h : b ≠ c) :
    (k.write b .dir v).dir c = k.dir c := by
  cases b <;> cases c <;> first | rfl | exact absurd rfl h
theorem Banks.write_dat_other (k : Banks) {b c : Bank} (v : Word) (h : b ≠ c) :
    (k.write b .dat v).out c = k.out c := by
  cases b <;> cases c <;> first | rfl | exact absurd rfl h
@[simp] theorem Banks.write_write (k : Banks) (b : Bank) (r : Reg) (v u : Word) :
    (k.write b r v).write b r u = k.write b r u := by
  cases b <;> cases r <;> rfl

/-- Two bank states with the same four registers are the same. -/
theorem Banks.ext_registers {k l : Banks} (hd : ∀ b, k.dir b = l.dir b) (ho : ∀ b, k.out b = l.out b) : k = l := by
  have h1 := hd .ctrl
  have h2 := hd .data
  have h3 := ho .ctrl
  have h4 := ho .data
  cases k
  cases l
  simp_all [Banks.dir, Banks.out]

/-! ## The environment -/

@[simp] theorem Env.afterDraw_backend (e : Env) : e.afterDraw.backend = e.backend := by
  unfold Env.afterDraw; split <;> rfl
@[simp] theorem Env.afterDraw_sched (e : Env) : e.afterDraw.sched = e.sched := by
  unfold Env.afterDraw; split <;> rfl
@[simp] theorem Env.afterRead_backend (e : Env) (r : Reg) : (e.afterRead r).backend = e.backend := by
  unfold Env.afterRead; split <;> simp
@[simp] theorem Env.afterRead_sched (e : Env) (r : Reg) : (e.afterRead r).sched = e.sched := by
  unfold Env.afterRead; split <;> simp
@[simp] theorem Env.afterDraw_slack (e : Env) : e.afterDraw.slack = e.slack := by
  unfold Env.afterDraw; split <;> rfl
@[simp] theorem Env.afterRead_slack (e : Env) (r : Reg) : (e.afterRead r).slack = e.slack := by
  unfold Env.afterRead; split <;> simp
@[simp] theorem Env.afterRead_dir (e : Env) : e.afterRead .dir = e := by
  unfold Env.afterRead; split <;> simp_all
/-- On the real port a read of a data register takes TARGET's next scripted levels. -/
theorem Env.afterRead_target {e : Env} (h : e.backend = .real) : (e.afterRead .dat).target = e.target.tail := by
  unfold Env.afterRead Env.afterDraw
  rw [h]
  cases e.target <;> rfl

@[simp] theorem State.envAfter_backend (s : State) : s.envAfter.backend = s.env.backend := rfl
@[simp] theorem State.envAfter_target (s : State) : s.envAfter.target = s.env.target := rfl
@[simp] theorem State.envAfter_sched (s : State) : s.envAfter.sched = s.env.sched.tail := rfl
@[simp] theorem State.envAfter_fresh (s : State) : s.envAfter.fresh = s.env.fresh + 1 := rfl

/-! ## The held operations as a step sees them -/

@[simp] theorem HeldOp.passed_host (o : HeldOp) : o.passed.host = o.host := rfl
@[simp] theorem HeldOp.passed_instr (o : HeldOp) : o.passed.instr = o.instr := rfl
@[simp] theorem HeldOp.passed_patience (o : HeldOp) : o.passed.patience = o.patience - 1 := rfl

/-! ## Addresses -/

@[simp] theorem State.afterRead_addr (b : Bank) (r : Reg) (s : State) : (s.afterRead b r).addr = s.addr := rfl
@[simp] theorem State.memWrite_addr (b : Bank) (r : Reg) (v : Word) (s : State) : (s.memWrite b r v).addr = s.addr := rfl
@[simp] theorem State.setBit_addr (b : Bank) (i : BitVec 5) (v : Bool) (s : State) : (s.setBit b i v).addr = s.addr := rfl
@[simp] theorem State.pulse_addr (b : Bank) (i : BitVec 5) (s : State) : (s.pulse b i).addr = s.addr := rfl
@[simp] theorem State.setDirection_addr (b : Bank) (o i : Word) (s : State) :
    (s.setDirection b o i).addr = s.addr := rfl

end Sys2Proof.Machine
end

