-- ==== Sys2Proof/Laws/Ops.lean ====
section
/-! SUPPORT. One specification lemma per shared operation: everything a bus read, setBit, pulse and setDirection can do,
in raw terms. Later proofs cite these and do not unfold the operations. -/

namespace Sys2Proof.Machine

/-! ## Reads -/

/-- On both ports an output bit of a data register reads back its latch (10_state.md R17, 20_memory.md R60). -/
theorem rawRead_dat_outputs (s : State) (b : Bank) :
    s.rawRead b .dat &&& s.banks.dir b = s.banks.out b &&& s.banks.dir b := by
  unfold State.rawRead readValue
  split
  · simp_all
  · apply BitVec.eq_of_getLsbD_eq
    intro k h
    simp only [BitVec.getLsbD_or, BitVec.getLsbD_and, BitVec.getLsbD_not, h, decide_true, Bool.true_and]
    cases (s.banks.out b).getLsbD k <;> cases (s.banks.dir b).getLsbD k <;> simp
  · rfl

theorem rawRead_dat_bit (s : State) (b : Bank) {k : Nat} (h : (s.banks.dir b).getLsbD k = true) :
    (s.rawRead b .dat).getLsbD k = (s.banks.out b).getLsbD k := by
  have e := congrArg (fun x => x.getLsbD k) (rawRead_dat_outputs s b)
  simpa [h] using e

/-- On the real port an input bit reads the pin level (10_state.md R17). -/
theorem rawRead_dat_input (s : State) (b : Bank) {k : Nat} (hk : k < 32) (hr : s.env.backend = .real)
    (h : (s.banks.dir b).getLsbD k = false) : (s.rawRead b .dat).getLsbD k = s.env.pins.getLsbD k := by
  simp only [State.rawRead, readValue, hr, BitVec.getLsbD_or, BitVec.getLsbD_and, BitVec.getLsbD_not, h, hk]
  simp

@[simp] theorem rawRead_dir (s : State) (b : Bank) : s.rawRead b .dir = s.banks.dir b := by
  unfold State.rawRead readValue; split <;> simp_all

/-- `getBit` is the raw bit of the pin (41_port_primitives.md R89). -/
theorem getBit_raw (s : State) (b : Bank) (i : BitVec 5) : s.getBit b i = (s.rawRead b .dat).getLsbD (rbit i) :=
  pinOf_bswap32 _ _

/-! ## The profile condition -/

theorem withProfile_true {s : State} (t : State) (h : s.cfgv = true) : s.withProfile t = t := by
  simp [State.withProfile, h]

theorem withProfile_false {s : State} (t : State) (h : s.cfgv = false) : s.withProfile t = s.refuse .noProfile := by
  simp [State.withProfile, h]

/-! ## Writes -/

theorem setBit_banks (b : Bank) (i : BitVec 5) (v : Bool) (s : State) :
    (s.setBit b i v).banks = s.banks.write b .dat
      (if v then s.rawRead b .dat ||| rmask i else s.rawRead b .dat &&& ~~~(rmask i)) := by
  simp [State.setBit, bswap32_withPin]

theorem setBit_trace (b : Bank) (i : BitVec 5) (v : Bool) (s : State) :
    (s.setBit b i v).trace = s.trace ++ [.read (s.addr b .dat) (s.rawRead b .dat), .write (s.addr b .dat)
      (if v then s.rawRead b .dat ||| rmask i else s.rawRead b .dat &&& ~~~(rmask i))] := by
  simp [State.setBit, bswap32_withPin]

theorem pulse_banks (b : Bank) (i : BitVec 5) (s : State) :
    (s.pulse b i).banks = s.banks.write b .dat (s.rawRead b .dat ||| rmask i) := by
  simp [State.pulse, bswap32_withPin_twice]

theorem pulse_trace (b : Bank) (i : BitVec 5) (s : State) :
    (s.pulse b i).trace = s.trace ++ [.read (s.addr b .dat) (s.rawRead b .dat),
      .write (s.addr b .dat) (s.rawRead b .dat &&& ~~~(rmask i)),
      .write (s.addr b .dat) (s.rawRead b .dat ||| rmask i)] := by
  simp [State.pulse, bswap32_withPin, bswap32_withPin_twice]

theorem setDirection_banks (b : Bank) (o i : Word) (s : State) :
    (s.setDirection b o i).banks =
      s.banks.write b .dir ((s.banks.dir b &&& ~~~(bswap32 i)) ||| bswap32 o) := by
  simp [State.setDirection, bswap32_or, bswap32_and, bswap32_not]

theorem setDirection_trace (b : Bank) (o i : Word) (s : State) :
    (s.setDirection b o i).trace = s.trace ++ [.read (s.addr b .dir) (s.banks.dir b),
      .write (s.addr b .dir) (s.banks.dir b &&& ~~~(bswap32 i)),
      .write (s.addr b .dir) ((s.banks.dir b &&& ~~~(bswap32 i)) ||| bswap32 o)] := by
  simp [State.setDirection, bswap32_or, bswap32_and, bswap32_not]

/-! ## Single bits after a write -/

/-- After `setBit` pin `i` has the value, and every other output bit keeps its latch (10_state.md R28). -/
theorem setBit_out_bit (b : Bank) (i : BitVec 5) (v : Bool) (s : State) {k : Nat} (hk : k < 32) :
    ((s.setBit b i v).banks.out b).getLsbD k = if k = rbit i then v else (s.rawRead b .dat).getLsbD k := by
  rw [setBit_banks, Banks.write_dat_same]
  cases v
  · simp only [Bool.false_eq_true, if_false, BitVec.getLsbD_and, BitVec.getLsbD_not, rmask_getLsbD i k, hk]
    by_cases h : k = rbit i <;> simp [h]
  · simp only [if_true, BitVec.getLsbD_or, rmask_getLsbD i k]
    by_cases h : k = rbit i <;> simp [h]

theorem pulse_out_bit (b : Bank) (i : BitVec 5) (s : State) (k : Nat) :
    ((s.pulse b i).banks.out b).getLsbD k = if k = rbit i then true else (s.rawRead b .dat).getLsbD k := by
  rw [pulse_banks, Banks.write_dat_same, BitVec.getLsbD_or, rmask_getLsbD i k]
  by_cases h : k = rbit i <;> simp [h]

@[simp] theorem setBit_dir (b c : Bank) (i : BitVec 5) (v : Bool) (s : State) :
    (s.setBit b i v).banks.dir c = s.banks.dir c := by
  rw [setBit_banks, Banks.write_dat_dir]

@[simp] theorem pulse_dir (b c : Bank) (i : BitVec 5) (s : State) : (s.pulse b i).banks.dir c = s.banks.dir c := by
  rw [pulse_banks, Banks.write_dat_dir]

@[simp] theorem setDirection_out (b c : Bank) (o i : Word) (s : State) :
    (s.setDirection b o i).banks.out c = s.banks.out c := by
  rw [setDirection_banks, Banks.write_dir_out]

/-- An output pin after `setBit`: the value at pin `i`, its latch elsewhere (10_state.md R28). -/
theorem setBit_output (b : Bank) (i : BitVec 5) (v : Bool) (s : State) (j : BitVec 5)
    (h : (s.banks.dir b).getLsbD (rbit j) = true) :
    ((s.setBit b i v).banks.out b).getLsbD (rbit j) = if j = i then v else (s.banks.out b).getLsbD (rbit j) := by
  rw [setBit_out_bit b i v s (rbit_lt j), rawRead_dat_bit s b h]
  by_cases e : j = i
  · simp [e]
  · rw [if_neg e, if_neg (fun x => e (rbit_injective x))]

/-- An output pin after `pulse`: 1 at pin `i`, its latch elsewhere (10_state.md R28). -/
theorem pulse_output (b : Bank) (i : BitVec 5) (s : State) (j : BitVec 5)
    (h : (s.banks.dir b).getLsbD (rbit j) = true) :
    ((s.pulse b i).banks.out b).getLsbD (rbit j) = if j = i then true else (s.banks.out b).getLsbD (rbit j) := by
  rw [pulse_out_bit b i s, rawRead_dat_bit s b h]
  by_cases e : j = i
  · simp [e]
  · rw [if_neg e, if_neg (fun x => e (rbit_injective x))]

theorem setBit_out_other {b c : Bank} (i : BitVec 5) (v : Bool) (s : State) (h : b ≠ c) :
    (s.setBit b i v).banks.out c = s.banks.out c := by
  rw [setBit_banks, Banks.write_dat_other _ _ h]

theorem pulse_out_other {b c : Bank} (i : BitVec 5) (s : State) (h : b ≠ c) :
    (s.pulse b i).banks.out c = s.banks.out c := by
  rw [pulse_banks, Banks.write_dat_other _ _ h]

/-- The direction bits after `setDirection`, pin by pin: an output wins over an input (41_port_primitives.md R91). -/
theorem setDirection_dir_bit (b : Bank) (o i : Word) (s : State) (j : BitVec 5) :
    ((s.setDirection b o i).banks.dir b).getLsbD (rbit j) =
      (pinOf o j || ((s.banks.dir b).getLsbD (rbit j) && !pinOf i j)) := by
  have hj := rbit_lt j
  rw [setDirection_banks, Banks.write_dir_same]
  have ho : (bswap32 o).getLsbD (rbit j) = pinOf o j := by rw [← pinOf_bswap32, bswap32_bswap32]
  have hi : (bswap32 i).getLsbD (rbit j) = pinOf i j := by rw [← pinOf_bswap32, bswap32_bswap32]
  simp only [BitVec.getLsbD_or, BitVec.getLsbD_and, BitVec.getLsbD_not, hj, ho, hi, decide_true, Bool.true_and,
    Bool.or_comm]

end Sys2Proof.Machine
end

