-- ==== Sys2Proof/Laws/Sequencer.lean ====
section
/-! SUPPORT. One specification lemma per sequencer step: the next state as a record update of the old one, with what is
known of the new banks, trace entries and environment. Later proofs cite these and do not unfold the steps. -/

namespace Sys2Proof.Machine

/-- What `n` reads of data registers do to the environment. -/
structure Env.Reads (e : Env) (n : Nat) (e' : Env) : Prop where
  backend : e'.backend = e.backend
  sched : e'.sched = e.sched
  slack : e'.slack = e.slack
  target : e.backend = .real → e'.target = e.target.drop n

theorem Env.Reads.refl (e : Env) : e.Reads 0 e := ⟨rfl, rfl, rfl, fun _ => rfl⟩

theorem Env.Reads.read {e e' : Env} {n : Nat} (h : e.Reads n e') : e.Reads (n + 1) (e'.afterRead .dat) where
  backend := by rw [Env.afterRead_backend, h.backend]
  sched := by rw [Env.afterRead_sched, h.sched]
  slack := by rw [Env.afterRead_slack, h.slack]
  target := fun hr => by
    rw [Env.afterRead_target (h.backend.trans hr), h.target hr, List.tail_drop]

theorem Env.reads_one (e : Env) : e.Reads 1 (e.afterRead .dat) := (Env.Reads.refl e).read

/-- STEP.SETUP (42_sequencer.md R97). -/
theorem stepSetup_spec (s : State) : ∃ (k : Banks) (es : List Entry),
    exec .stepSetup s = .next { s with banks := k, trace := s.trace ++ es, ph := false, st := stReset } ∧
    es.length = 6 ∧
    (∀ j, k.dirCtrl.getLsbD (rbit j) =
      (pinOf s.profile.ctrlOut j || (s.banks.dirCtrl.getLsbD (rbit j) && !pinOf s.profile.ctrlIn j))) ∧
    (∀ j, k.dirData.getLsbD (rbit j) = (pinOf s.profile.dataOut j || s.banks.dirData.getLsbD (rbit j))) ∧
    k.outCtrl = s.banks.outCtrl ∧ k.outData = s.banks.outData := by
  let s1 := s.setDirection .ctrl s.profile.ctrlOut s.profile.ctrlIn
  let s2 := s1.setDirection .data s.profile.dataOut 0#32
  have h1 : s2.banks.dir .ctrl = s1.banks.dir .ctrl := by
    rw [setDirection_banks, Banks.write_dir_other _ _ (by decide)]
  have h2 : s1.banks.dir .data = s.banks.dir .data := by
    rw [setDirection_banks, Banks.write_dir_other _ _ (by decide)]
  obtain ⟨es, hes, hl⟩ : ∃ es, s2.trace = s.trace ++ es ∧ es.length = 6 :=
    ⟨_, by simp only [s2, s1, setDirection_trace, List.append_assoc]; rfl, rfl⟩
  refine ⟨s2.banks, es, by rw [← hes]; rfl, hl, ?_, ?_, ?_, ?_⟩
  · intro j
    have := setDirection_dir_bit .ctrl s.profile.ctrlOut s.profile.ctrlIn s j
    rw [← h1] at this
    exact this
  · intro j
    have := setDirection_dir_bit .data s.profile.dataOut 0#32 s1 j
    rw [h2, show pinOf 0#32 j = false by simp [pinOf], Bool.not_false, Bool.and_true] at this
    exact this
  · exact (setDirection_out .data .ctrl _ _ s1).trans (setDirection_out .ctrl .ctrl _ _ s)
  · exact (setDirection_out .data .data _ _ s1).trans (setDirection_out .ctrl .data _ _ s)

/-- The action of RESET (42_sequencer.md R98): its writes change the control latch alone. -/
theorem resetAction_spec (s : State) : ∃ (v : Word) (es : List Entry) (e : Env),
    s.resetAction = { s with banks := { s.banks with outCtrl := v }, trace := s.trace ++ es, env := e } ∧
    es.length = 11 ∧ s.env.Reads 5 e ∧
    (∀ j, s.banks.dirCtrl.getLsbD (rbit j) = true → v.getLsbD (rbit j) =
      if j = s.profile.pinProgram ∨ j = s.profile.pinClock ∨ j = s.profile.pinRdwr ∨ j = s.profile.pinCsi then true
      else s.banks.outCtrl.getLsbD (rbit j)) := by
  let s1 := s.setBit .ctrl s.profile.pinCsi true
  let s2 := s1.setBit .ctrl s.profile.pinRdwr true
  let s3 := s2.setBit .ctrl s.profile.pinProgram true
  let s4 := s3.setBit .ctrl s.profile.pinClock true
  let s5 := s4.pulse .ctrl s.profile.pinProgram
  obtain ⟨es, hes, hl⟩ : ∃ es, s5.trace = s.trace ++ es ∧ es.length = 11 :=
    ⟨_, by simp only [s5, s4, s3, s2, s1, pulse_trace, setBit_trace, List.append_assoc]; rfl, rfl⟩
  refine ⟨s5.banks.outCtrl, es, _, by rw [← hes]; rfl, hl, (Env.reads_one s.env).read.read.read.read, fun j hj => ?_⟩
  have d0 : (s.banks.dir .ctrl).getLsbD (rbit j) = true := hj
  have d1 : (s1.banks.dir .ctrl).getLsbD (rbit j) = true := by rw [setBit_dir]; exact hj
  have d2 : (s2.banks.dir .ctrl).getLsbD (rbit j) = true := by rw [setBit_dir]; exact d1
  have d3 : (s3.banks.dir .ctrl).getLsbD (rbit j) = true := by rw [setBit_dir]; exact d2
  have d4 : (s4.banks.dir .ctrl).getLsbD (rbit j) = true := by rw [setBit_dir]; exact d3
  have e := pulse_output .ctrl s.profile.pinProgram s4 j d4
  rw [setBit_output _ _ _ _ _ d3, setBit_output _ _ _ _ _ d2, setBit_output _ _ _ _ _ d1,
    setBit_output _ _ _ _ _ d0, show s.banks.out .ctrl = s.banks.outCtrl from rfl] at e
  refine e.trans ?_
  split_ifs <;> first | rfl | simp_all

/-- STEP.RESET with its exits (42_sequencer.md R98 to R100). -/
theorem stepReset_spec (s : State) : ∃ (v : Word) (es : List Entry) (e : Env),
    exec .stepReset s = .next (
      if s.ro then { s with
        banks := { s.banks with outCtrl := v }, trace := s.trace ++ es, env := e, reason := .none, st := stDone }
      else if s.iwb = 0#32 then { s with
        banks := { s.banks with outCtrl := v }, trace := s.trace ++ es, env := e, poll := 0#32,
        reason := .initTimeout, ph := false, st := stFailed }
      else { s with
        banks := { s.banks with outCtrl := v }, trace := s.trace ++ es, env := e, poll := 0#32, st := stWaitInit }) ∧
    es.length = 11 ∧ s.env.Reads 5 e ∧
    (∀ j, s.banks.dirCtrl.getLsbD (rbit j) = true → v.getLsbD (rbit j) =
      if j = s.profile.pinProgram ∨ j = s.profile.pinClock ∨ j = s.profile.pinRdwr ∨ j = s.profile.pinCsi then true
      else s.banks.outCtrl.getLsbD (rbit j)) := by
  obtain ⟨v, es, e, h, hl, he, hv⟩ := resetAction_spec s
  refine ⟨v, es, e, ?_, hl, he, hv⟩
  show Host.Outcome.next (if s.ro then s.resetAction.resetOnlyExit else s.resetAction.enterWaitInit) = _
  rw [h]
  split
  · rfl
  · simp only [State.enterWaitInit]
    split <;> rfl

/-- STEP.WAIT_INIT (42_sequencer.md R101). -/
theorem stepWaitInit_spec (s : State) : ∃ (es : List Entry) (e : Env),
    exec .stepWaitInit s = .next (
      if s.getBit .ctrl s.profile.pinInit then { s with
        trace := s.trace ++ es, env := e, poll := s.poll + 1#32, idx := 0#32, ph := false, st := stShifting }
      else if s.poll + 1#32 = s.iwb then { s with
        trace := s.trace ++ es, env := e, poll := s.poll + 1#32, reason := .initTimeout, ph := false, st := stFailed }
      else { s with trace := s.trace ++ es, env := e, poll := s.poll + 1#32 }) ∧
    es.length = 1 ∧ s.env.Reads 1 e :=
  ⟨_, _, rfl, rfl, Env.reads_one s.env⟩

/-- STEP.SHIFT_FRAME (42_sequencer.md R102). -/
theorem stepShiftFrame_spec (s : State) : ∃ (v : Word) (es : List Entry) (e : Env),
    exec .stepShiftFrame s = .next (
      if s.n = 0#32 then { s with
        banks := { s.banks with outCtrl := v }, trace := s.trace ++ es, env := e, ph := false, st := stWaitDone }
      else { s with
        banks := { s.banks with outCtrl := v }, trace := s.trace ++ es, env := e, ph := true }) ∧
    es.length = 12 ∧ s.env.Reads 6 e ∧
    (∀ j, s.banks.dirCtrl.getLsbD (rbit j) = true → v.getLsbD (rbit j) =
      if j = s.profile.pinClock then true
      else if j = s.profile.pinCsi ∨ j = s.profile.pinRdwr then false
      else s.banks.outCtrl.getLsbD (rbit j)) := by
  let s1 := s.setBit .ctrl s.profile.pinClock false
  let s2 := s1.setBit .ctrl s.profile.pinRdwr false
  let s3 := s2.setBit .ctrl s.profile.pinClock true
  let s4 := s3.setBit .ctrl s.profile.pinClock false
  let s5 := s4.setBit .ctrl s.profile.pinCsi false
  let s6 := s5.setBit .ctrl s.profile.pinClock true
  obtain ⟨es, hes, hl⟩ : ∃ es, s6.trace = s.trace ++ es ∧ es.length = 12 :=
    ⟨_, by simp only [s6, s5, s4, s3, s2, s1, setBit_trace, List.append_assoc]; rfl, rfl⟩
  refine ⟨s6.banks.outCtrl, es, _, by rw [← hes]; rfl, hl, (Env.reads_one s.env).read.read.read.read.read, fun j hj => ?_⟩
  have d0 : (s.banks.dir .ctrl).getLsbD (rbit j) = true := hj
  have d1 : (s1.banks.dir .ctrl).getLsbD (rbit j) = true := by rw [setBit_dir]; exact hj
  have d2 : (s2.banks.dir .ctrl).getLsbD (rbit j) = true := by rw [setBit_dir]; exact d1
  have d3 : (s3.banks.dir .ctrl).getLsbD (rbit j) = true := by rw [setBit_dir]; exact d2
  have d4 : (s4.banks.dir .ctrl).getLsbD (rbit j) = true := by rw [setBit_dir]; exact d3
  have d5 : (s5.banks.dir .ctrl).getLsbD (rbit j) = true := by rw [setBit_dir]; exact d4
  have e := setBit_output .ctrl s.profile.pinClock true s5 j d5
  rw [setBit_output _ _ _ _ _ d4, setBit_output _ _ _ _ _ d3, setBit_output _ _ _ _ _ d2,
    setBit_output _ _ _ _ _ d1, setBit_output _ _ _ _ _ d0, show s.banks.out .ctrl = s.banks.outCtrl from rfl] at e
  refine e.trans ?_
  split_ifs <;> first | rfl | simp_all

theorem afterPay_reads (s : State) (n : Nat) (e : Env) (h : s.env = e) : ∀ e0 : Env, e0.Reads n e → e0.Reads n s.afterPay := by
  intro e0 hr
  subst h
  unfold State.afterPay
  split
  · exact hr
  · exact ⟨hr.backend, hr.sched, hr.slack, hr.target⟩

/-- STEP.SHIFT_CHUNK (42_sequencer.md R103). -/
theorem stepShiftChunk_spec (s : State) : ∃ (v : Word) (es : List Entry) (e : Env),
    exec .stepShiftChunk s = .next (
      if s.idx + s.busWidth = s.n then { s with
        banks := { s.banks with
          outCtrl := v, outData := bswap32 (s.chunkWord (bswap32 (s.rawRead .data .dat))) },
        trace := s.trace ++ es, env := e, idx := s.idx + s.busWidth, ph := false, st := stWaitDone }
      else { s with
        banks := { s.banks with
          outCtrl := v, outData := bswap32 (s.chunkWord (bswap32 (s.rawRead .data .dat))) },
        trace := s.trace ++ es, env := e, idx := s.idx + s.busWidth }) ∧
    es.length = 5 ∧ s.env.Reads 2 e ∧
    (∀ j, s.banks.dirCtrl.getLsbD (rbit j) = true → v.getLsbD (rbit j) =
      if j = s.profile.pinClock then true else s.banks.outCtrl.getLsbD (rbit j)) := by
  let w := bswap32 (s.chunkWord (bswap32 (s.rawRead .data .dat)))
  let s1 := { s.afterRead .data .dat with env := (s.afterRead .data .dat).afterPay }.memWrite .data .dat w
  let s2 := s1.pulse .ctrl s.profile.pinClock
  obtain ⟨es, hes, hl⟩ : ∃ es, s2.trace = s.trace ++ es ∧ es.length = 5 :=
    ⟨_, by simp only [s2, s1, pulse_trace, State.memWrite_trace, State.afterRead_trace, List.append_assoc]; rfl, rfl⟩
  refine ⟨s2.banks.outCtrl, es, _, by rw [← hes]; rfl, hl, (afterPay_reads (s.afterRead .data .dat) 1 _ rfl s.env (Env.reads_one s.env)).read, fun j hj => ?_⟩
  exact pulse_output .ctrl s.profile.pinClock s1 j hj

/-- STEP.CHECK_INIT (42_sequencer.md R105). -/
theorem stepCheckInit_spec (s : State) : ∃ (es : List Entry) (e : Env),
    exec .stepCheckInit s = .next (
      if s.getBit .ctrl s.profile.pinInit = false then { s with
        trace := s.trace ++ es, env := e, reason := .programmingRejected, ph := false, st := stFailed }
      else if s.dwb = 0#32 then { s with
        trace := s.trace ++ es, env := e, poll := 0#32, reason := .doneTimeout, ph := false, st := stFailed }
      else { s with trace := s.trace ++ es, env := e, poll := 0#32, ph := true }) ∧
    es.length = 1 ∧ s.env.Reads 1 e :=
  ⟨_, _, rfl, rfl, Env.reads_one s.env⟩

/-- STEP.POLL_DONE (42_sequencer.md R107). -/
theorem stepPollDone_spec (s : State) : ∃ (es : List Entry) (e : Env),
    exec .stepPollDone s = .next (
      if s.getBit .ctrl s.profile.pinDone then { s with
        trace := s.trace ++ es, env := e, poll := s.poll + 1#32, scnt := 0#4, ph := false, st := stCompleting }
      else if s.poll + 1#32 = s.dwb then { s with
        trace := s.trace ++ es, env := e, poll := s.poll + 1#32, reason := .doneTimeout, ph := false, st := stFailed }
      else { s with trace := s.trace ++ es, env := e, poll := s.poll + 1#32 }) ∧
    es.length = 1 ∧ s.env.Reads 1 e :=
  ⟨_, _, rfl, rfl, Env.reads_one s.env⟩

/-- STEP.COMPLETING (42_sequencer.md R108). -/
theorem stepCompleting_spec (s : State) : ∃ (v : Word) (es : List Entry) (e : Env),
    exec .stepCompleting s = .next (
      if s.scnt + 1#4 = Config.startupClocks then { s with
        banks := { s.banks with outCtrl := v }, trace := s.trace ++ es, env := e, scnt := s.scnt + 1#4,
        reason := .none, st := stDone }
      else { s with
        banks := { s.banks with outCtrl := v }, trace := s.trace ++ es, env := e, scnt := s.scnt + 1#4 }) ∧
    es.length = 3 ∧ s.env.Reads 1 e ∧
    (∀ j, s.banks.dirCtrl.getLsbD (rbit j) = true → v.getLsbD (rbit j) =
      if j = s.profile.pinClock then true else s.banks.outCtrl.getLsbD (rbit j)) :=
  ⟨_, _, _, by
    unfold exec execStepCompleting
    rw [← pulse_trace]; rfl, rfl, Env.reads_one s.env, fun j hj => pulse_output .ctrl s.profile.pinClock s j hj⟩

end Sys2Proof.Machine
end

