-- ==== Sys2Proof/Laws/Safety.lean ====
section
/-! SUPPORT. Lemmas about the safety notions: the states an assigned selector allows, the directions SETUP leaves, and the
invariant of a state that is not busy. -/

namespace Sys2Proof.Machine

/-- The states and phases of an assigned selector (30_encoding.md R76). -/
theorem selector_cases (s : State) (h : (decodeSelector s.selector).isSome = true) :
    (s.st = stIdle ∧ s.ph = false) ∨ (s.st = stSetup ∧ s.ph = false) ∨ (s.st = stReset ∧ s.ph = false) ∨
    (s.st = stWaitInit ∧ s.ph = false) ∨ s.st = stShifting ∨ s.st = stWaitDone ∨
    (s.st = stCompleting ∧ s.ph = false) ∨ (s.st = stDone ∧ s.ph = false) ∨ (s.st = stFailed ∧ s.ph = false) := by
  unfold State.selector at h
  generalize s.st = st at *
  generalize s.ph = ph at *
  revert st ph
  decide

theorem selector_of {s : State} {a : BitVec 4} {b : Bool} (h1 : s.st = a) (h2 : s.ph = b) :
    s.selector = BitVec.ofBool b ++ a := by rw [State.selector, h1, h2]

theorem selector_isSome {s : State} {a : BitVec 4} {b : Bool} (h1 : s.st = a) (h2 : s.ph = b)
    (h : (decodeSelector (BitVec.ofBool b ++ a)).isSome = true) : (decodeSelector s.selector).isSome = true := by
  rw [selector_of h1 h2, h]

/-- The sequencer step of a state and phase. -/
theorem seqStep_of {s : State} {a : BitVec 4} {b : Bool} {i : Instr} (h1 : s.st = a) (h2 : s.ph = b)
    (h : decodeSelector (BitVec.ofBool b ++ a) = some i) : seqStep s = exec i s := by
  rw [seqStep, selector_of h1 h2, h]

/-- The banks of SETUP have the directions of an attempt (42_sequencer.md R97). -/
theorem setup_directions {s : State} {k : Banks} (hw : s.profile.wellFormed s.params = true)
    (hc : ∀ j, k.dirCtrl.getLsbD (rbit j) =
      (pinOf s.profile.ctrlOut j || (s.banks.dirCtrl.getLsbD (rbit j) && !pinOf s.profile.ctrlIn j)))
    (hd : ∀ j, k.dirData.getLsbD (rbit j) = (pinOf s.profile.dataOut j || s.banks.dirData.getLsbD (rbit j)))
    {t : State} (h1 : t.banks = k) (h2 : t.profile = s.profile) : t.DirectionsSet := by
  obtain ⟨n1, n2⟩ := inputs_distinct hw
  constructor
  · intro g hg
    rw [State.isOutput, h1, h2, hc, pinOf_ctrlOut]
    rcases hg with rfl | rfl | rfl | rfl <;> simp [Profile.pin]
  · intro g hg
    rw [State.isOutput, h1, h2, hc, pinOf_ctrlOut, pinOf_ctrlIn]
    rcases hg with rfl | rfl
    · rw [Profile.pin, decide_eq_false n1]; simp
    · rw [Profile.pin, decide_eq_false n2]; simp
  · intro j hj
    rw [h2] at hj
    rw [h1, hd, pinOf_dataOut hw, hj, Bool.true_or]

/-- A state that differs from one that meets the invariant in its banks, marks, responses, environment, HOSTs and working
registers alone, and is not busy, meets it. -/
theorem inv_of_not_busy {t : State} (hst : t.st = stIdle ∨ t.st = stDone ∨ t.st = stFailed) (hph : t.ph = false)
    (params : t.params.wellFormed = true) (noFault : t.fault = false)
    (profile : t.cfgv = true → t.profile.wellFormed t.params = true) (length : t.n.toNat = t.pay.length)
    (idx : t.idx.toNat ≤ t.n.toNat) (scnt : t.scnt.toNat ≤ Config.startupClocks.toNat)
    (reason : t.st = stFailed ↔ t.reason ≠ .none)
    (held : ∀ h ∈ t.held, hostOperation h.instr = true ∧ h.instr ≠ .cmdStatus) : t.Inv := by
  have hb : t.busy = false := by rcases hst with h | h | h <;> rw [State.busy, h] <;> rfl
  have ne : ∀ a, a = stSetup ∨ a = stReset ∨ a = stWaitInit ∨ a = stShifting ∨ a = stWaitDone ∨ a = stCompleting →
      t.st ≠ a := by
    rintro a (rfl | rfl | rfl | rfl | rfl | rfl) <;> rcases hst with h | h | h <;> rw [h] <;> decide
  have h1 : t.afterReset = false := by
    simp [State.afterReset, ne stWaitInit (by simp), ne stShifting (by simp)]
  have h2 : t.afterFraming = false := by
    simp [State.afterFraming, ne stWaitDone (by simp), ne stShifting (by simp), ne stCompleting (by simp)]
  exact {
    params := params
    noFault := noFault
    selector := by rcases hst with h | h | h <;> rw [selector_of h hph] <;> rfl
    profile := profile
    configured := fun h => by simp [hb] at h
    length := length
    twoBytes := fun h => by simp [hb] at h
    full := fun h => by simp [h1, h2] at h
    idxBound := idx
    framing := fun h => absurd h (ne _ (by simp))
    chunkDue := fun h => absurd h (ne _ (by simp))
    shifted := fun h => by rcases h with h | h <;> exact absurd h (ne _ (by simp))
    initPolls := fun h => absurd h (ne _ (by simp))
    donePolls := fun h => absurd h (ne _ (by simp))
    startup := scnt
    startupDue := fun h => absurd h (ne _ (by simp))
    reason := reason
    directions := fun h => by simp [hb] at h
    levels := ⟨fun h => by simp [h1, h2] at h, fun h => by simp [h1, h2] at h, fun h => by simp [h1] at h,
      fun h => by simp [h2] at h⟩
    heldOps := held }

end Sys2Proof.Machine
end

