-- ==== Sys2Proof/Laws/Fetch.lean ====
section
/-! SUPPORT. What the operations of Machine/Fetch.lean and Machine/Schedule.lean can do: one lemma each, to be cited instead
of unfolding them; runs of the sequencer; the 32-bit counters. -/

namespace Sys2Proof.Machine

/-! ## HOST agents -/

/-- A HOST that exists is replaced in place. -/
theorem updateHost_eq_set (f : HostAgent → HostAgent) {k : Nat} {hs : List HostAgent} {h : HostAgent}
    (e : hs[k]? = some h) : updateHost f k hs = hs.set k (f h) := by
  induction hs generalizing k with
  | nil => simp at e
  | cons x xs ih =>
    cases k with
    | zero => simp_all [updateHost]
    | succ k => simp at e; simp [updateHost, ih e]

theorem updateHost_getElem? (f : HostAgent → HostAgent) (k j : Nat) (hs : List HostAgent) :
    (updateHost f k hs)[j]? = if j = k then hs[j]?.map f else hs[j]? := by
  induction hs generalizing k j with
  | nil => simp [updateHost]
  | cons x xs ih => cases k <;> cases j <;> simp [updateHost, ih]

/-- A change that keeps property `P` of every HOST keeps it in the whole list. -/
theorem updateHost_forall {P : HostAgent → Prop} {f : HostAgent → HostAgent} (hf : ∀ h, P h → P (f h)) {k : Nat}
    {hs : List HostAgent} (h : ∀ x ∈ hs, P x) : ∀ x ∈ updateHost f k hs, P x := by
  induction hs generalizing k with
  | nil => simp [updateHost]
  | cons y ys ih =>
    rw [List.forall_mem_cons] at h
    cases k with
    | zero => exact List.forall_mem_cons.mpr ⟨hf y h.1, h.2⟩
    | succ k => exact List.forall_mem_cons.mpr ⟨h.1, ih h.2⟩

/-- Delivering a response changes the HOST agents only. -/
theorem deliver_eq (k : Nat) (i : Instr) (s : State) : s.deliver k i = { s with hosts := (s.deliver k i).hosts } := by
  unfold State.deliver
  split <;> rfl

/-- What a delivery leaves of each HOST: only the issuer's inbox grows, by the response if there is one. -/
theorem deliver_host (k j : Nat) (i : Instr) (s : State) :
    (s.deliver k i).hosts[j]? = if j = k then s.hosts[j]?.map (fun h => match s.resp with
      | none => h
      | some v => { h with inbox := h.inbox ++ [⟨i, v⟩] }) else s.hosts[j]? := by
  unfold State.deliver
  cases s.resp with
  | none => simp
  | some v => exact updateHost_getElem? _ _ _ _

/-- The answer a run finds is its HOST's oldest response, and of the operation it waits for. -/
theorem answer_some {h : HostAgent} {r : HostRun} {v : Word} (e : h.answer r = some v) :
    ∃ i vs, h.inbox = ⟨i, v⟩ :: vs ∧ r.awaits i = true := by
  unfold HostAgent.answer at e
  split at e
  · cases e
  · next x xs hx =>
    split at e
    · next ha => cases e; exact ⟨x.op, xs, hx, ha⟩
    · cases e

/-! ## exec and the agents -/

/-- No instruction changes the HOST agents, the held operations, the session lock of the runs or the parameters, nor what
is fixed of the environment. -/
theorem exec_agents {i : Instr} {s t : State} (h : exec i s = .next t) :
    t.hosts = s.hosts ∧ t.held = s.held ∧ t.params = s.params ∧ t.runLock = s.runLock ∧
    t.env.backend = s.env.backend ∧ t.env.sched = s.env.sched ∧ t.env.slack = s.env.slack := by
  cases i
  case stepSetup => obtain ⟨k, es, h', -⟩ := stepSetup_spec s; rw [h'] at h; cases h; simp
  case stepReset =>
    obtain ⟨v, es, e, h', -, hr, -⟩ := stepReset_spec s
    rw [h'] at h; cases h
    split <;> (try split) <;> simp [hr.backend, hr.sched, hr.slack]
  case stepWaitInit =>
    obtain ⟨es, e, h', -, hr⟩ := stepWaitInit_spec s
    rw [h'] at h; cases h
    split <;> (try split) <;> simp [hr.backend, hr.sched, hr.slack]
  case stepShiftFrame =>
    obtain ⟨v, es, e, h', -, hr, -⟩ := stepShiftFrame_spec s
    rw [h'] at h; cases h
    split <;> simp [hr.backend, hr.sched, hr.slack]
  case stepShiftChunk =>
    obtain ⟨v, es, e, h', -, hr, -⟩ := stepShiftChunk_spec s
    rw [h'] at h; cases h
    split <;> simp [hr.backend, hr.sched, hr.slack]
  case stepCheckInit =>
    obtain ⟨es, e, h', -, hr⟩ := stepCheckInit_spec s
    rw [h'] at h; cases h
    split <;> (try split) <;> simp [hr.backend, hr.sched, hr.slack]
  case stepPollDone =>
    obtain ⟨es, e, h', -, hr⟩ := stepPollDone_spec s
    rw [h'] at h; cases h
    split <;> (try split) <;> simp [hr.backend, hr.sched, hr.slack]
  case stepCompleting =>
    obtain ⟨v, es, e, h', -, hr, -⟩ := stepCompleting_spec s
    rw [h'] at h; cases h
    split <;> simp [hr.backend, hr.sched, hr.slack]
  all_goals
    simp only [exec, execBswap, execSplice, execSetbit, execGetbit, execPulse, execSetdir, execRdreg, execWrreg, execLdw,
      execCmdConfig, execCmdProgram, execCmdResetOnly, execCmdStatus, execStepIdle, execStepDone, execStepFailed,
      State.withProfile] at h
    repeat' split at h
    all_goals first | (cases h; simp) | cases h

/-! ## Outcomes -/

theorem onNext_next {f : State → State} {o : Host.Outcome State Fault Refusal} {t : State} (h : onNext f o = .next t) :
    ∃ u, o = .next u ∧ t = f u := by
  cases o <;> simp [onNext] at h
  exact ⟨_, rfl, h.symm⟩

/-- An operation performed: exec's next state, with the response delivered. -/
theorem perform_next {k : Nat} {i : Instr} {s t : State} (h : perform k i s = .next t) :
    ∃ u, exec i s = .next u ∧ t = u.deliver k i := onNext_next h

/-- The lock either holds an operation or lets it through (43_host_commands.md R117). -/
theorem accept_next {k : Nat} {i : Instr} {s t : State} (h : accept k i s = .next t) :
    (s.busy = true ∧ i ≠ .cmdStatus ∧
      t = { s with held := s.held ++ [⟨k, i, Config.freePatience s.env.fresh⟩] }) ∨
    ((s.busy = false ∨ i = .cmdStatus) ∧ perform k i s = .next t) := by
  unfold accept at h
  split at h
  · next hc =>
    simp only [Bool.and_eq_true, Bool.not_eq_true', decide_eq_false_iff_not] at hc
    cases h
    exact .inl ⟨hc.1, hc.2, rfl⟩
  · next hc =>
    refine .inr ⟨?_, h⟩
    simp only [Bool.and_eq_true, Bool.not_eq_true', decide_eq_false_iff_not, not_and, not_not] at hc
    cases hb : s.busy
    · exact .inl rfl
    · exact .inr (hc hb)

/-- A list split at an element. -/
theorem eraseIdx_split {α : Type} {l : List α} {n : Nat} {x : α} (h : l[n]? = some x) :
    ∃ a b, l = a ++ x :: b ∧ l.eraseIdx n = a ++ b ∧ a.length = n := by
  induction l generalizing n with
  | nil => simp at h
  | cons y ys ih =>
    cases n with
    | zero => simp at h; subst h; exact ⟨[], ys, rfl, rfl, rfl⟩
    | succ n =>
      obtain ⟨a, b, h1, h2, h3⟩ := ih (by simpa using h)
      exact ⟨y :: a, b, by simp [h1], by simp [h2], by simp [h3]⟩

/-- A release does nothing, or performs one held operation while not busy (43_host_commands.md R117). -/
theorem release_next {k : Nat} {s t : State} (h : release k s = .next t) :
    (t = s ∧ (s.busy = true ∨ s.held = [])) ∨ (s.busy = false ∧ ∃ before o after, s.held = before ++ o :: after ∧
      before.length = k % s.held.length ∧
      perform o.host o.instr { s with held := before ++ after } = .next t) := by
  unfold release at h
  split at h
  · next hb => cases h; exact .inl ⟨rfl, .inl hb⟩
  · next hb =>
    split at h
    · next hn =>
      cases h
      refine .inl ⟨rfl, .inr ?_⟩
      by_contra hne
      have := Nat.mod_lt k (List.length_pos_of_ne_nil hne)
      rw [List.getElem?_eq_none_iff] at hn
      omega
    · next o ho =>
      obtain ⟨before, after, h1, h2, h3⟩ := eraseIdx_split ho
      exact .inr ⟨by simpa using hb, before, o, after, h1, h3, h2 ▸ h⟩

/-- A stream gives operations of HOST only (30_encoding.md R72). -/
theorem decodeStream_host {aw : Nat} {ws r : List Word} {ps m : List (List Byte)} {i : Instr}
    (h : decodeStream aw ws ps = .op i r m) : hostOperation i = true := by
  unfold decodeStream at h
  cases ws with
  | nil => cases h
  | cons w ws =>
    simp only at h
    cases hc : classify w with
    | error e => rw [hc] at h; cases h
    | ok c =>
      rw [hc] at h
      cases c <;> simp only [decodeFields, decodeConfig] at h
      all_goals first
        | (cases h; rfl)
        | (split at h <;> first | (cases h; rfl) | cases h | (split at h <;> first | (cases h; rfl) | cases h))

/-- What the arrival of a HOST's word can do: nothing; the refusal of an illegal word; an operation of HOST at the lock. -/
theorem arrive_next {k : Nat} {s t : State} (h : arrive k s = .next t) :
    t = s ∨
    (∃ hosts, t = { s with hosts := hosts }.refuse .illegalEncoding) ∨
    (∃ i hosts, hostOperation i = true ∧ accept k i { s with hosts := hosts } = .next t) := by
  unfold arrive at h
  split at h
  · cases h; exact .inl rfl
  · split at h
    · cases h; exact .inl rfl
    · cases h; exact .inr (.inl ⟨_, rfl⟩)
    · next hd => exact .inr (.inr ⟨_, _, decodeStream_host hd, h⟩)

/-! ## The move of a step -/

theorem noteFault_of_isSome {s : State} (h : (decodeSelector s.selector).isSome = true) : s.noteFault = s := by
  unfold State.noteFault
  rw [show (decodeSelector s.selector).isNone = false by rw [← Option.not_isSome, h]; rfl, Bool.or_false]

theorem nextMove_of_sched {s : State} {m : Move} {ms : List Move} (h : s.env.sched = m :: ms) : s.nextMove = m := by
  rw [State.nextMove, h]

theorem nextMove_of_nil {s : State} (h : s.env.sched = []) : s.nextMove = s.freeMove := by
  rw [State.nextMove, h]

theorem waiting_of_busy {s : State} (h : s.busy = true) : s.waiting = s.held := if_pos h

theorem waiting_of_not_busy {s : State} (h : s.busy = false) : s.waiting = s.held.map HeldOp.passed := by
  rw [State.waiting, h]; rfl

@[simp] theorem waiting_length (s : State) : s.waiting.length = s.held.length := by
  unfold State.waiting; split <;> simp

/-- Waiting changes no held operation but for how long it may still be passed over. -/
theorem mem_waiting {s : State} {o : HeldOp} (h : o ∈ s.waiting) :
    ∃ o' ∈ s.held, o.host = o'.host ∧ o.instr = o'.instr := by
  unfold State.waiting at h
  split at h
  · exact ⟨o, h, rfl, rfl⟩
  · obtain ⟨o', h', rfl⟩ := List.mem_map.mp h
    exact ⟨o', h', rfl, rfl⟩

/-- With the block not busy and no script, an operation that may not be passed over any more is accepted
(43_host_commands.md R117; log 34). -/
theorem nextMove_of_overdue {s : State} {j : Nat} (hs : s.env.sched = []) (hb : s.busy = false)
    (h : s.overdue = some j) : s.nextMove = .release j := by
  simp [nextMove_of_nil hs, State.freeMove, hb, h]

/-- With the block busy, no script and no slack, the sequencer moves. -/
theorem nextMove_of_no_slack {s : State} (hs : s.env.sched = []) (hb : s.busy = true) (h : s.env.slack = 0) :
    s.nextMove = .seq := by
  simp [nextMove_of_nil hs, State.freeMove, hb, h]

theorem ready_of_isSome {s : State} (h : (decodeSelector s.selector).isSome = true) :
    s.ready = { s with env := s.envAfter, held := s.waiting } := noteFault_of_isSome h

/-! ## Runs of the sequencer -/

theorem seqRun_add {j k : Nat} {s t : State} (h : seqRun j s = .next t) : seqRun (j + k) s = seqRun k t := by
  induction j generalizing s with
  | zero => simp [seqRun] at h; subst h; simp
  | succ j ih =>
    rw [show j + 1 + k = (j + k) + 1 by omega]
    simp only [seqRun] at h ⊢
    cases hs : seqStep s with
    | next u => rw [hs] at h; exact ih h
    | fault r => rw [hs] at h; cases h
    | refused r => rw [hs] at h; cases h

/-! ## Counters -/

/-- A counter below a bound does not wrap. -/
theorem toNat_add_one {x y : Word} (h : x.toNat < y.toNat) : (x + 1#32).toNat = x.toNat + 1 := by
  have := y.isLt
  rw [BitVec.toNat_add]; simp; omega

theorem poll_lt {x y : Word} (h : x.toNat < y.toNat) (hne : x + 1#32 ≠ y) : (x + 1#32).toNat < y.toNat := by
  have h1 := toNat_add_one h
  have : (x + 1#32).toNat ≠ y.toNat := fun e => hne (BitVec.eq_of_toNat_eq e)
  omega

theorem busWidth_toNat (s : State) : s.busWidth.toNat = if s.w then 2 else 1 := by
  unfold State.busWidth; split <;> rfl

/-! ## The simulated backend -/

/-- An injection touches one pin. -/
theorem injectPin_bit (raw : Word) {i j : BitVec 5} (v : Option Bool) (h : j ≠ i) :
    (injectPin raw i v).getLsbD (rbit j) = raw.getLsbD (rbit j) := by
  cases v with
  | none => rfl
  | some v =>
    have hj := rbit_lt j
    have hne : rbit j ≠ rbit i := fun e => h (rbit_injective e)
    simp only [injectPin, bswap32_withPin]
    cases v
    · simp only [Bool.false_eq_true, if_false, BitVec.getLsbD_and, BitVec.getLsbD_not, rmask_getLsbD, hj, hne]; simp
    · simp only [if_true, BitVec.getLsbD_or, rmask_getLsbD, hne]; simp

end Sys2Proof.Machine
end

