-- ==== Sys2Proof/Laws/PerInstr.lean ====
section
/-! SUPPORT. The per-instruction family FirstWord: what the encoder's first word is to the decoder's legality check. -/

namespace Sys2Proof.Laws.FirstWord

/-- The operation code of an operation; none for a sequencer step (30_encoding.md R72, R76). -/
def opcodeOf : Instr → Option Opcode
  | .bswap => some .bswap
  | .splice _ _ => some .splice
  | .setbit _ _ _ => some .setbit
  | .getbit _ _ => some .getbit
  | .pulse _ _ => some .pulse
  | .setdir _ _ _ => some .setdir
  | .rdreg _ _ => some .rdreg
  | .wrreg _ _ => some .wrreg
  | .ldw _ => some .ldw
  | .cmdConfig _ _ _ _ _ _ => some .config
  | .cmdProgram _ _ => some .program
  | .cmdResetOnly => some .resetOnly
  | .cmdStatus => some .status
  | .stepIdle | .stepSetup | .stepReset | .stepWaitInit | .stepShiftFrame | .stepShiftChunk | .stepCheckInit
  | .stepPollDone | .stepCompleting | .stepDone | .stepFailed => none

/-- A well-formed operation's first word is legal, of the operation's own code, and followed by as many extension words as
that code takes; a sequencer step is a selector (30_encoding.md R71 to R73, R76). -/
def Statement (i : Instr) : Prop :=
  ∀ aw : Nat, i.wf aw = true →
    match opcodeOf i with
    | some c => ∃ w ws, (encode aw i).words = w :: ws ∧ classify w = .ok c ∧ ws.length = extWords aw c
    | none => ∃ sel, encode aw i = .selector sel

theorem setbit_word (b v : BitVec 1) (i : BitVec 5) : odwPort 0x03#8 b v 0#1 i &&& 0xFF20FFFF#32 = 0x03000000#32 := by
  apply BitVec.eq_of_getLsbD_eq
  intro k hk
  rw [BitVec.getLsbD_and, odwPort, odw_getLsbD]
  interval_cases k <;> simp

theorem getbit_word (b : BitVec 1) (i : BitVec 5) : odwPort 0x04#8 b 0#1 0#1 i &&& 0xFF60FFFF#32 = 0x04000000#32 := by
  apply BitVec.eq_of_getLsbD_eq
  intro k hk
  rw [BitVec.getLsbD_and, odwPort, odw_getLsbD]
  interval_cases k <;> simp

theorem pulse_word (b : BitVec 1) (i : BitVec 5) : odwPort 0x05#8 b 0#1 0#1 i &&& 0xFF60FFFF#32 = 0x05000000#32 := by
  apply BitVec.eq_of_getLsbD_eq
  intro k hk
  rw [BitVec.getLsbD_and, odwPort, odw_getLsbD]
  interval_cases k <;> simp

theorem splice_word (y : Byte) (o : BitVec 5) :
    odw 0x02#8 0#1 0#1 0#1 0#5 y o &&& 0xFFFF00E0#32 = 0x02000000#32 := by
  apply BitVec.eq_of_getLsbD_eq
  intro k hk
  rw [BitVec.getLsbD_and, odw_getLsbD]
  interval_cases k <;> simp

theorem legal {r : OdwRow} (hr : r ∈ odwRows) {w : Word} (h : w &&& r.mask = r.pattern) (hs : r.code ≠ .splice) :
    classify w = .ok r.code := by
  rw [classify_row hr h, if_neg (fun x => hs x.1)]

theorem bswap : Statement .bswap := fun _ _ => ⟨_, _, rfl, by decide, rfl⟩
theorem splice (o : BitVec 5) (y : Byte) : Statement (.splice o y) := fun _ h => ⟨_, _, rfl, by
  have ho : o.toNat ≤ 24 := by simpa [Instr.wf] using h
  rw [classify_row (r := ⟨.splice, 0x02000000#32, 0xFFFF00E0#32⟩) (by decide) (splice_word y o), odwOffset_odw,
    if_neg (by rintro ⟨-, x⟩; omega)], rfl⟩
theorem setbit (b : Bank) (v : Bool) (i : BitVec 5) : Statement (.setbit b v i) := fun _ _ => ⟨_, _, rfl,
  legal (r := ⟨.setbit, 0x03000000#32, 0xFF20FFFF#32⟩) (by decide) (setbit_word _ _ i) (by decide), rfl⟩
theorem getbit (b : Bank) (i : BitVec 5) : Statement (.getbit b i) := fun _ _ => ⟨_, _, rfl,
  legal (r := ⟨.getbit, 0x04000000#32, 0xFF60FFFF#32⟩) (by decide) (getbit_word _ i) (by decide), rfl⟩
theorem pulse (b : Bank) (i : BitVec 5) : Statement (.pulse b i) := fun _ _ => ⟨_, _, rfl,
  legal (r := ⟨.pulse, 0x05000000#32, 0xFF60FFFF#32⟩) (by decide) (pulse_word _ i) (by decide), rfl⟩
theorem setdir (b : Bank) (o i : Word) : Statement (.setdir b o i) := fun _ _ => ⟨_, _, rfl, by cases b <;> decide, rfl⟩
theorem rdreg (b : Bank) (r : Reg) : Statement (.rdreg b r) := fun _ _ => ⟨_, _, rfl, by cases b <;> cases r <;> decide, rfl⟩
theorem wrreg (b : Bank) (r : Reg) : Statement (.wrreg b r) := fun _ _ => ⟨_, _, rfl, by cases b <;> cases r <;> decide, rfl⟩
theorem ldw (imm : Word) : Statement (.ldw imm) := fun _ _ => ⟨_, _, rfl, by decide, rfl⟩
theorem cmdConfig (pinw geow : Word) (cb db : Nat) (iwb dwb : Word) :
    Statement (.cmdConfig pinw geow cb db iwb dwb) := fun aw _ => ⟨_, _, rfl, by decide, by
  simp [extWords]; omega⟩
theorem cmdProgram (v : Bool) (pay : List Byte) : Statement (.cmdProgram v pay) := fun _ _ =>
  ⟨_, _, rfl, by cases v <;> decide, rfl⟩
theorem cmdResetOnly : Statement .cmdResetOnly := fun _ _ => ⟨_, _, rfl, by decide, rfl⟩
theorem cmdStatus : Statement .cmdStatus := fun _ _ => ⟨_, _, rfl, by decide, rfl⟩
theorem stepIdle : Statement .stepIdle := fun _ _ => ⟨_, rfl⟩
theorem stepSetup : Statement .stepSetup := fun _ _ => ⟨_, rfl⟩
theorem stepReset : Statement .stepReset := fun _ _ => ⟨_, rfl⟩
theorem stepWaitInit : Statement .stepWaitInit := fun _ _ => ⟨_, rfl⟩
theorem stepShiftFrame : Statement .stepShiftFrame := fun _ _ => ⟨_, rfl⟩
theorem stepShiftChunk : Statement .stepShiftChunk := fun _ _ => ⟨_, rfl⟩
theorem stepCheckInit : Statement .stepCheckInit := fun _ _ => ⟨_, rfl⟩
theorem stepPollDone : Statement .stepPollDone := fun _ _ => ⟨_, rfl⟩
theorem stepCompleting : Statement .stepCompleting := fun _ _ => ⟨_, rfl⟩
theorem stepDone : Statement .stepDone := fun _ _ => ⟨_, rfl⟩
theorem stepFailed : Statement .stepFailed := fun _ _ => ⟨_, rfl⟩

end Sys2Proof.Laws.FirstWord
end

