-- ==== Sys2Proof/Tests/Slice0.lean ====
section
/-! SUPPORT. Tests on small states, with results from 95_test_vectors.md and from hand calculation by the rules, and one
witness theorem for the hypotheses of each statement. -/

namespace Sys2Proof.Tests

open Sys2Proof Sys2Proof.Machine

/-! ## Helpers -/

/-- `i` at `s` answers a next state with property `p`. -/
def does (i : Instr) (s : State) (p : State → Bool) : Bool :=
  match exec i s with
  | .next t => p t
  | _ => false

/-- One step of the machine answers a next state with property `p`. -/
def steps (s : State) (p : State → Bool) : Bool :=
  match step s with
  | .next t => p t
  | _ => false

/-- `k` sequencer steps answer a next state with property `p`. -/
def runs (k : Nat) (s : State) (p : State → Bool) : Bool :=
  match seqRun k s with
  | .next t => p t
  | _ => false

/-- Power-on, then the profile EXA of 95_test_vectors.md section 1 with `IWB = DWB = 5`. -/
def exa : State := { State.reset with profile := profileExa, cfgv := true, iwb := 5#32, dwb := 5#32 }

/-- The same with the profile EXA8. -/
def exa8 : State := { exa with profile := profileExa8 }

/-- The next levels TARGET drives. -/
def drive (vs : List Word) (s : State) : State := { s with env := { s.env with target := vs } }

/-- The simulated backend. -/
def simulated (s : State) : State := { s with env := { s.env with backend := .simulated } }

/-- EXA with given direction and latch of the control bank. -/
def ctrl (dir out : Word) : State := { exa with banks := ⟨dir, out, 0#32, 0#32⟩ }

/-- EXA in the course of a two-byte attempt on the payload AA 55: the directions and levels of the traces of
95_test_vectors.md section 4, after the RESET step. -/
def attempt (st : BitVec 4) (ph : Bool) : State :=
  let framed := (st == stShifting && ph) || st == stWaitDone || st == stCompleting
  { exa with
    st := st, ph := ph, w := true, pay := [0xAA#8, 0x55#8], n := 2#32
    idx := if st == stWaitDone || st == stCompleting then 2#32 else 0#32
    reason := if st == stFailed then .initTimeout else .none
    banks := ⟨0x11200080#32, if framed then 0x01000080#32 else 0x11200080#32, 0x00FFFF00#32, 0#32⟩ }

/-- The clauses of the invariant as one check. -/
def invCheck (s : State) : Bool :=
  decide (s.params.wellFormed = true ∧ s.fault = false ∧ (decodeSelector s.selector).isSome = true ∧
    (s.cfgv = true → s.profile.wellFormed s.params = true) ∧ (s.busy = true → s.cfgv = true) ∧
    s.n.toNat = s.pay.length ∧
    (s.busy = true → s.ro = false → s.w = true → s.profile.dataWidthBits = 16#5 ∧ s.pay.length % 2 = 0) ∧
    (s.afterReset = true ∨ s.afterFraming = true → s.ro = false) ∧ s.idx.toNat ≤ s.n.toNat) &&
  decide ((s.st = stShifting → s.ph = false → s.idx = 0#32) ∧
    (s.st = stShifting → s.ph = true → s.idx.toNat < s.n.toNat ∧ (s.w = true → s.idx.toNat % 2 = 0)) ∧
    (s.st = stWaitDone ∨ s.st = stCompleting → s.idx = s.n) ∧ (s.st = stWaitInit → s.poll.toNat < s.iwb.toNat) ∧
    (s.st = stWaitDone → s.ph = true → s.poll.toNat < s.dwb.toNat) ∧
    s.scnt.toNat ≤ Config.startupClocks.toNat ∧
    (s.st = stCompleting → s.scnt.toNat < Config.startupClocks.toNat) ∧ (s.st = stFailed ↔ s.reason ≠ .none)) &&
  decide (s.busy = true → s.st ≠ stSetup →
    (s.isOutput .program = true ∧ s.isOutput .csi = true ∧ s.isOutput .rdwr = true ∧ s.isOutput .clock = true) ∧
    (s.isOutput .init = false ∧ s.isOutput .done = false) ∧
    ∀ j, onBus s.profile j = true → s.banks.dirData.getLsbD (rbit j) = true) &&
  decide ((s.afterReset = true ∨ s.afterFraming = true → s.level .program = true ∧ s.level .clock = true) ∧
    (s.afterReset = true → s.level .csi = true ∧ s.level .rdwr = true) ∧
    (s.afterFraming = true → s.level .csi = false ∧ s.level .rdwr = false)) &&
  s.held.all (fun h => hostOperation h.instr && !decide (h.instr = .cmdStatus))

/-- The check gives the invariant. -/
theorem inv_of {s : State} (h : invCheck s = true) : s.Inv := by
  unfold invCheck at h
  simp only [Bool.and_eq_true, List.all_eq_true, Bool.not_eq_true', decide_eq_true_eq, decide_eq_false_iff_not] at h
  obtain ⟨⟨⟨⟨⟨a1, a2, a3, a4, a5, a6, a7, a8, a9⟩, b1, b2, b3, b4, b5, b6, b7, b8⟩, c⟩, d1, d2, d3⟩, e⟩ := h
  refine ⟨a1, a2, a3, a4, a5, a6, a7, a8, a9, b1, b2, b3, b4, b5, b6, b7, b8, fun h1 h2 => ?_,
    ⟨fun h => (d1 h).1, fun h => (d1 h).2, d2, d3⟩, e⟩
  obtain ⟨o, i, b⟩ := c h1 h2
  refine ⟨fun g hg => ?_, fun g hg => ?_, b⟩
  · obtain rfl | rfl | rfl | rfl := hg
    · exact o.1
    · exact o.2.1
    · exact o.2.2.1
    · exact o.2.2.2
  · obtain rfl | rfl := hg
    · exact i.1
    · exact i.2

/-! ## WellFormed refuses what no encoding expresses -/

theorem test_wf_splice_offset : (Instr.splice 24#5 0xAB#8).wf 32 = true ∧ (Instr.splice 25#5 0xAB#8).wf 32 = false := by
  decide

theorem test_wf_ctrl_base : (Instr.cmdConfig 0#32 0#32 (2 ^ 32 - 1) 0 0#32 0#32).wf 32 = true ∧
    (Instr.cmdConfig 0#32 0#32 (2 ^ 32) 0 0#32 0#32).wf 32 = false := by decide

theorem test_wf_data_base : (Instr.cmdConfig 0#32 0#32 0 (2 ^ 64 - 1) 0#32 0#32).wf 33 = true ∧
    (Instr.cmdConfig 0#32 0#32 0 (2 ^ 64) 0#32 0#32).wf 33 = false := by decide

theorem test_wf_payload_length : (Instr.cmdProgram true (List.replicate (2 ^ 32) 0#8)).wf 32 = false := by
  have h : ∀ n : Nat, (Instr.cmdProgram true (List.replicate n 0#8)).wf 32 = decide (n < 2 ^ 32) := by
    intro n
    rw [Instr.wf, List.length_replicate]
  exact (h _).trans (decide_eq_false (Nat.lt_irrefl _))

/-! ## Decoding: one word of each row, written out from 30_encoding.md R69 to R76 (values of 95_test_vectors.md) -/

theorem test_decode_bswap : decodeTableWord 32 0x01000000 = some .bswap := by decide
theorem test_decode_splice : decodeTableWord 32 0x0200AB17 = some (.splice 23#5 0xAB#8) := by decide
theorem test_decode_setbit : decodeTableWord 32 0x03520000 = some (.setbit .ctrl true 18#5) := by decide
theorem test_decode_setbit_data : decodeTableWord 32 0x03850000 = some (.setbit .data false 5#5) := by decide
theorem test_decode_getbit : decodeTableWord 32 0x040C0000 = some (.getbit .ctrl 12#5) := by decide
theorem test_decode_pulse : decodeTableWord 32 0x051F0000 = some (.pulse .ctrl 31#5) := by decide
theorem test_decode_setdir :
    decodeTableWord 96 0x004800008000201106000000 = some (.setdir .ctrl 0x80002011#32 0x00480000#32) := by decide
theorem test_decode_rdreg : decodeTableWord 32 0x07200000 = some (.rdreg .ctrl .dat) := by decide
theorem test_decode_wrreg : decodeTableWord 32 0x08800000 = some (.wrreg .data .dir) := by decide
theorem test_decode_ldw : decodeTableWord 64 0xDEADBEEF09000000 = some (.ldw 0xDEADBEEF#32) := by decide
/-- The CONFIG of EXA, with bounds 5 and 6 to tell them apart. -/
theorem test_decode_config :
    decodeStream 32 [0x10000000#32, 0x00996FEC#32, 0x00001008#32, 0x10000000#32, 0x10000100#32, 5#32, 6#32, 7#32] [] =
      .op (.cmdConfig 0x00996FEC#32 0x00001008#32 0x10000000 0x10000100 5#32 6#32) [7#32] [] := by decide
/-- Bases of two words each, least significant word first (R71). -/
theorem test_decode_config_wide :
    decodeStream 40 [0x10000000#32, 1#32, 2#32, 3#32, 4#32, 5#32, 6#32, 7#32, 8#32] [] =
      .op (.cmdConfig 1#32 2#32 0x400000003 0x600000005 7#32 8#32) [] [] := by decide
theorem test_decode_program :
    decodeStream 32 [0x11400000#32] [[0xAA#8], [0x55#8]] = .op (.cmdProgram true [0xAA#8]) [] [[0x55#8]] := by decide
theorem test_decode_program_width_one : decodeTableWord 32 0x11000000 = some (.cmdProgram false []) := by decide
theorem test_decode_reset_only : decodeTableWord 32 0x12000000 = some .cmdResetOnly := by decide
theorem test_decode_status : decodeTableWord 32 0x13000000 = some .cmdStatus := by decide
theorem test_decode_idle : decodeTableWord 8 0x00 = some .stepIdle := by decide
theorem test_decode_setup : decodeTableWord 8 0x01 = some .stepSetup := by decide
theorem test_decode_reset : decodeTableWord 8 0x02 = some .stepReset := by decide
theorem test_decode_wait_init : decodeTableWord 8 0x03 = some .stepWaitInit := by decide
theorem test_decode_shift_frame : decodeTableWord 8 0x04 = some .stepShiftFrame := by decide
theorem test_decode_shift_chunk : decodeTableWord 8 0x14 = some .stepShiftChunk := by decide
theorem test_decode_check_init : decodeTableWord 8 0x05 = some .stepCheckInit := by decide
theorem test_decode_poll_done : decodeTableWord 8 0x15 = some .stepPollDone := by decide
theorem test_decode_completing : decodeTableWord 8 0x06 = some .stepCompleting := by decide
theorem test_decode_done : decodeTableWord 8 0x07 = some .stepDone := by decide
theorem test_decode_failed : decodeTableWord 8 0x08 = some .stepFailed := by decide

/-- The reserved selectors of R76. -/
theorem test_decode_reserved_selectors :
    ∀ sel : BitVec 5, decodeSelector sel = none ↔
      sel ∈ [0x09#5, 0x0A#5, 0x0B#5, 0x0C#5, 0x0D#5, 0x0E#5, 0x0F#5, 0x10#5, 0x11#5, 0x12#5, 0x13#5, 0x16#5, 0x17#5] ++
        [0x18#5, 0x19#5, 0x1A#5, 0x1B#5, 0x1C#5, 0x1D#5, 0x1E#5, 0x1F#5] := by decide

/-- The illegal words of 95_test_vectors.md section 3.8. -/
theorem test_decode_illegal :
    classify 0x00000000#32 = .error .unassignedOp ∧ classify 0x0A000000#32 = .error .unassignedOp ∧
    classify 0x14000000#32 = .error .unassignedOp ∧ classify 0xFF000000#32 = .error .unassignedOp ∧
    classify 0x01000001#32 = .error .reservedBits ∧ classify 0x0200AB19#32 = .error .spliceOffset ∧
    classify 0x0200AB38#32 = .error .reservedBits ∧ classify 0x03720000#32 = .error .reservedBits ∧
    classify 0x04490000#32 = .error .reservedBits ∧ classify 0x06200000#32 = .error .reservedBits ∧
    classify 0x07100000#32 = .error .reservedBits ∧ classify 0x11000001#32 = .error .reservedBits ∧
    classify 0x13800000#32 = .error .reservedBits := by decide

/-- No two rows of the operation table have a word in common. -/
theorem test_rows_disjoint :
    odwRows.Pairwise (fun r q => r.pattern &&& (r.mask &&& q.mask) ≠ q.pattern &&& (r.mask &&& q.mask)) := by decide

/-! ## Operand forms (95_test_vectors.md sections 1 and 3.1) -/

theorem test_masks :
    rmask 0#5 = 0x00000080#32 ∧ rmask 7#5 = 0x00000001#32 ∧ rmask 8#5 = 0x00008000#32 ∧ rmask 31#5 = 0x01000000#32 ∧
    lmask 15#5 = 0x00010000#32 ∧ lmask 24#5 = 0x00000080#32 := by decide

theorem test_profile_words :
    profileExa.ctrlOut = 0x80002011#32 ∧ profileExa.ctrlIn = 0x00480000#32 ∧ profileExa.dataOut = 0x00FFFF00#32 ∧
    profileExa8.dataOut = 0x0FF00000#32 ∧ profileExa.pinw = 0x00996FEC#32 ∧ profileExa.geow = 0x00001008#32 ∧
    profileExa8.geow = 0x00000804#32 ∧ profileExa.up = 8 ∧ profileExa.lo = 16 ∧ profileExa8.lo = 4 := by decide

/-! ## One operation (95_test_vectors.md section 3) -/

theorem test_bswap : does .bswap { exa with ww := 0x12345678#32 } (fun t => t.ww == 0x78563412#32) = true := by decide

/-- Table 3.3, O = 23. -/
theorem test_splice :
    does (.splice 23#5 0xAB#8) { exa with ww := 0x12345678#32 } (fun t => t.ww == 0x12345756#32) = true := by decide

theorem test_splice_refused : does (.splice 25#5 0xAB#8) { exa with ww := 0x12345678#32 }
    (fun t => t.ww == 0x12345678#32 && t.refusedFor == some .illegalEncoding) = true := by decide

theorem test_ldw : does (.ldw 0xDEADBEEF#32) State.reset (fun t => t.ww == 0xDEADBEEF#32 && t.trace == []) = true := by
  decide

/-- Table 3.4, `RDREG CTRL, DAT`: the latch on output bits, the pin on input bits. -/
theorem test_rdreg : does (.rdreg .ctrl .dat) (drive [0x00004000#32] (ctrl 0x11200080#32 0x01000080#32))
    (fun t => t.ww == 0x01004080#32 && t.trace == [.read 0x10000004 0x01004080#32]) = true := by decide

theorem test_wrreg : does (.wrreg .data .dat) { exa with ww := 0x00FE0100#32 }
    (fun t => t.banks.outData == 0x00FE0100#32 && t.trace == [.write 0x10000104 0x00FE0100#32]) = true := by decide

theorem test_bank_operation_needs_profile :
    does (.wrreg .ctrl .dir) State.reset (fun t => t.refusedFor == some .noProfile && t.trace == []) = true := by decide

/-- Section 3.5, an input pin: the latch takes the read INIT level as well. -/
theorem test_setbit : does (.setbit .ctrl true 18#5) (drive [0x00004000#32] exa)
    (fun t => t.trace == [.read 0x10000004 0x00004000#32, .write 0x10000004 0x00204000#32]) = true := by decide

theorem test_setbit_clear : does (.setbit .ctrl false 15#5) (drive [0#32] (ctrl 0xFFFFFFFF#32 0xFFFFFFFF#32))
    (fun t => t.banks.outCtrl == 0xFFFFFEFF#32) = true := by decide

theorem test_getbit : does (.getbit .ctrl 9#5) (drive [0x00004000#32] exa) (fun t => t.rv && t.resp == some 1#32) =
    true ∧ does (.getbit .ctrl 12#5) (drive [0x00004000#32] exa) (fun t => !t.rv && t.resp == some 0#32) = true := by
  decide

/-- Table 3.6, CLOCK low before. -/
theorem test_pulse : does (.pulse .ctrl 31#5) (ctrl 0x11200080#32 0x00000080#32 |> drive [0#32])
    (fun t => t.trace == [.read 0x10000004 0x00000080#32, .write 0x10000004 0x00000080#32,
      .write 0x10000004 0x01000080#32]) = true := by decide

/-- Table 3.7, EXA control from all outputs. -/
theorem test_setdir : does (.setdir .ctrl 0x80002011#32 0x00480000#32) (ctrl 0xFFFFFFFF#32 0#32)
    (fun t => t.trace == [.read 0x10000000 0xFFFFFFFF#32, .write 0x10000000 0xFFFFB7FF#32,
      .write 0x10000000 0xFFFFB7FF#32]) = true := by decide

/-- Table 3.7, pin 0 in both masks: the output wins. -/
theorem test_setdir_output_wins : does (.setdir .ctrl 0x80000000#32 0x80000000#32) exa
    (fun t => t.banks.dirCtrl == 0x00000080#32) = true := by decide

theorem test_config : does (.cmdConfig 0x00996FEC#32 0x00001008#32 0x10000000 0x10000100 5#32 6#32) State.reset
    (fun t => t.profile == profileExa && t.iwb == 5#32 && t.dwb == 6#32 && t.cfgv && t.statusWord == 0x00000200#32) =
    true := by decide

/-- The refusals of CONFIG in section 3.9: width 12, bus past the bank, CSI = CLOCK, one base for both banks, a base
that is not aligned. -/
theorem test_config_refused :
    [(0x00996FEC#32, 0x00000C08#32, 0x10000000, 0x10000100), (0x00996FEC#32, 0x00001014#32, 0x10000000, 0x10000100),
      (0x009FEFEC#32, 0x00001008#32, 0x10000000, 0x10000100), (0x00996FEC#32, 0x00001008#32, 0x10000000, 0x10000000),
      (0x00996FEC#32, 0x00001008#32, 0x10000002, 0x10000100)].all
      (fun (p, g, c, d) => does (.cmdConfig p g c d 5#32 5#32) State.reset
        (fun t => t.refusedFor == some .badProfile && !t.cfgv)) = true := by decide

theorem test_program : does (.cmdProgram true [0xAA#8, 0x55#8]) exa
    (fun t => t.statusWord == 0x00000301#32 && t.n == 2#32 && t.pay == [0xAA#8, 0x55#8] && t.w) = true := by decide

theorem test_program_refused :
    does (.cmdProgram false [0xAA#8]) State.reset (fun t => t.refusedFor == some .noProfile) = true ∧
    does (.cmdProgram true [0xAA#8, 0x55#8]) exa8 (fun t => t.refusedFor == some .widthMismatch) = true ∧
    does (.cmdProgram true [0xAA#8, 0x55#8, 0x01#8]) exa (fun t => t.refusedFor == some .oddPayload) = true := by decide

theorem test_reset_only : does .cmdResetOnly exa (fun t => t.statusWord == 0x00000321#32) = true := by decide

/-- Status words of section 3.9: chunk phase, DONE polls, InitTimeout, DoneTimeout. -/
theorem test_status :
    does .cmdStatus (attempt stShifting true) (fun t => t.resp == some 0x00000314#32) = true ∧
    does .cmdStatus (attempt stWaitDone true) (fun t => t.resp == some 0x00000315#32) = true ∧
    does .cmdStatus (attempt stFailed false) (fun t => t.resp == some 0x00000248#32) = true ∧
    does .cmdStatus { attempt stFailed false with reason := .doneTimeout }
      (fun t => t.resp == some 0x000002C8#32) = true := by decide

/-! ## One sequencer step (95_test_vectors.md section 4.1) -/

theorem test_step_setup : does .stepSetup exa (fun t => t.st == stReset &&
    t.trace == [.read 0x10000000 0#32, .write 0x10000000 0#32, .write 0x10000000 0x11200080#32,
      .read 0x10000100 0#32, .write 0x10000100 0#32, .write 0x10000100 0x00FFFF00#32]) = true := by decide

/-- The six writes of RESET, from `OUT_CTRL = 0`. -/
theorem test_step_reset :
    does .stepReset (drive [0#32, 0#32, 0#32, 0#32, 0#32] { ctrl 0x11200080#32 0#32 with st := stReset })
      (fun t => t.st == stWaitInit && t.trace.length == 11 &&
        t.trace.filterMap (fun | .write _ v => some v | .read _ _ => none) ==
          [0x00200000#32, 0x10200000#32, 0x10200080#32, 0x11200080#32, 0x11200000#32, 0x11200080#32]) = true := by
  decide

/-- T6: `IWB = 0`. -/
theorem test_step_reset_zero_bound : does .stepReset { attempt stReset false with iwb := 0#32 }
    (fun t => t.st == stFailed && t.reason == .initTimeout && t.poll == 0#32) = true := by decide

theorem test_step_wait_init : does .stepWaitInit (drive [0x00004000#32] (attempt stWaitInit false))
    (fun t => t.st == stShifting && !t.ph && t.poll == 1#32 && t.trace == [.read 0x10000004 0x11204080#32]) = true := by
  decide

theorem test_step_wait_init_timeout :
    does .stepWaitInit (drive [0#32] { attempt stWaitInit false with poll := 4#32 })
      (fun t => t.st == stFailed && t.reason == .initTimeout && t.poll == 5#32) = true := by decide

theorem test_step_shift_frame :
    does .stepShiftFrame (drive [0#32, 0#32, 0#32, 0#32, 0#32, 0#32] (attempt stShifting false))
      (fun t => t.ph && t.trace.length == 12 &&
        t.trace.filterMap (fun | .write _ v => some v | .read _ _ => none) ==
          [0x10200080#32, 0x00200080#32, 0x01200080#32, 0x00200080#32, 0x00000080#32, 0x01000080#32]) = true := by
  decide

/-- Two bytes a chunk: AA in the upper lane, 55 in the lower. -/
theorem test_step_shift_chunk : does .stepShiftChunk (drive [0#32, 0#32] (attempt stShifting true))
    (fun t => t.st == stWaitDone && t.idx == 2#32 &&
      t.trace == [.read 0x10000104 0#32, .write 0x10000104 0x0055AA00#32, .read 0x10000004 0x01000080#32,
        .write 0x10000004 0x00000080#32, .write 0x10000004 0x01000080#32]) = true := by decide

/-- T11, an 8-bit bus that straddles two raw bytes. -/
theorem test_step_shift_chunk_straddle :
    does .stepShiftChunk (drive [0#32, 0#32] { attempt stShifting true with
        profile := profileExa8, w := false, pay := [0xA5#8, 0x3C#8], banks := ⟨0x11200080#32, 0x01000080#32,
          0x0000F00F#32, 0#32⟩ })
      (fun t => t.banks.outData == 0x0000500A#32 && t.idx == 1#32 && t.st == stShifting) = true := by decide

theorem test_step_check_init : does .stepCheckInit (drive [0x00004000#32] (attempt stWaitDone false))
    (fun t => t.ph && t.poll == 0#32 && t.st == stWaitDone) = true := by decide

/-- T9: a rejection beats DONE. -/
theorem test_step_check_init_rejected : does .stepCheckInit (drive [0x00000800#32] (attempt stWaitDone false))
    (fun t => t.st == stFailed && t.reason == .programmingRejected) = true := by decide

theorem test_step_poll_done : does .stepPollDone (drive [0x00000800#32] { attempt stWaitDone true with poll := 4#32 })
    (fun t => t.st == stCompleting && t.scnt == 0#4 && !t.ph && t.poll == 5#32) = true := by decide

theorem test_step_poll_done_timeout : does .stepPollDone (drive [0#32] { attempt stWaitDone true with poll := 4#32 })
    (fun t => t.st == stFailed && t.reason == .doneTimeout && t.poll == 5#32) = true := by decide

theorem test_step_completing : does .stepCompleting (drive [0#32] (attempt stCompleting false))
    (fun t => t.st == stCompleting && t.scnt == 1#4 &&
      t.trace == [.read 0x10000004 0x01000080#32, .write 0x10000004 0x00000080#32, .write 0x10000004 0x01000080#32]) =
    true := by decide

theorem test_step_completing_last : does .stepCompleting (drive [0#32] { attempt stCompleting false with scnt := 7#4 })
    (fun t => t.st == stDone && t.scnt == 8#4) = true := by decide

/-! ## The machine around exec -/

/-- A word placed for the next step is run by it. -/
theorem test_step_runs_a_word : steps (State.reset.withFetchWord 64 0xDEADBEEF09000000)
    (fun t => t.ww == 0xDEADBEEF#32 && t.hosts == [⟨[], [], [⟨.ldw 0xDEADBEEF#32, 0xDEADBEEF#32⟩], none⟩]) = true := by decide

theorem test_step_runs_a_selector :
    steps (exa.withFetchWord 8 0x01) (fun t => t.st == stReset && t.trace.length == 6) = true := by decide

/-- Section 3.9: SETBIT during an attempt is held; the illegal word is refused even while busy. -/
theorem test_step_holds : steps { attempt stWaitInit false with
      hosts := [⟨[0x03000000#32], [], [], none⟩], env := ⟨.real, [], [.host 0], 0, 0⟩ }
    (fun t => t.held.map (fun o => (o.host, o.instr)) == [(0, .setbit .ctrl false 0#5)] && t.trace == [] && !t.refused) =
    true := by decide

/-- With no script, the second of two held operations may be passed over no more and is the one accepted; with the block
busy and no slack left the sequencer moves (43_host_commands.md R117; log 34). -/
theorem test_step_never_holds_for_ever :
    steps { exa with held := [⟨0, .ldw 1#32, 5⟩, ⟨0, .ldw 2#32, 0⟩] }
      (fun t => t.ww == 2#32 && t.held == [⟨0, .ldw 1#32, 4⟩]) = true ∧
    steps { attempt stSetup false with held := [⟨0, .ldw 1#32, 5⟩] }
      (fun t => t.st == stReset && t.held == [⟨0, .ldw 1#32, 5⟩]) = true := by decide

theorem test_step_illegal_while_busy : steps { attempt stWaitInit false with
      hosts := [⟨[0x0A000000#32], [], [], none⟩], env := ⟨.real, [], [.host 0], 0, 0⟩ }
    (fun t => t.refused && t.held == [] && t.st == stWaitInit) = true := by decide

/-- A reserved selector sets FAULT (60_exceptions.md R132). -/
theorem test_step_reserved_selector :
    steps { exa with ph := true, env := ⟨.real, [], [.seq], 0, 0⟩ } (fun t => t.fault && t.trace == []) = true := by decide

/-- The simulated backend reads back its latch, and INIT is injected into it (20_memory.md R60). -/
theorem test_simulated_injection :
    steps { simulated exa with env := ⟨.simulated, [], [.inject (some true) none], 0, 0⟩ }
      (fun t => t.banks.outCtrl == 0x00004000#32 && t.trace == []) = true ∧
    does (.getbit .ctrl 9#5) { simulated exa with banks := ⟨0#32, 0x00004000#32, 0#32, 0#32⟩ } (fun t => t.rv) = true := by
  decide

/-! ## The assembler (30_encoding.md R79 to R81, 95_test_vectors.md section 5) -/

theorem test_asm_putb : (AsmLine.putb 8 0xAA).assemble 32 profileExa =
    .ok ([0x07A00000#32, 0x01000000#32, 0x0200AA08#32, 0x01000000#32, 0x08A00000#32], []) := by decide

theorem test_asm_dirsetup : AsmLine.dirsetup.assemble 32 profileExa =
    .ok ([0x06000000#32, 0x80002011#32, 0x00480000#32, 0x06800000#32, 0x00FFFF00#32, 0#32], []) := by decide

/-- Table R81, SET and CLR, and `V = w - 1` of R79. -/
theorem test_asm_set_clr_program :
    (AsmLine.set .ctrl (.index 18)).assemble 32 profileExa = .ok ([0x03520000#32], []) ∧
    (AsmLine.clr .ctrl (.signal .csi)).assemble 32 profileExa = .ok ([0x03120000#32], []) ∧
    (AsmLine.program 2 [0xAA#8, 0x55#8]).assemble 32 profileExa = .ok ([0x11400000#32], [[0xAA#8, 0x55#8]]) := by decide

theorem test_asm_clk : AsmLine.clk.assemble 32 profileExa = .ok ([0x051F0000#32], []) := by decide

theorem test_asm_signal_on_data : (AsmLine.set .data (.signal .csi)).expand 32 profileExa = .error .signalOnData ∧
    (AsmLine.set .ctrl (.signal .csi)).expand 32 profileExa = .ok [.setbit .ctrl true 18#5] ∧
    (AsmLine.splice 25 0).expand 32 profileExa = .error .operandRange := by
  refine ⟨rfl, rfl, rfl⟩

/-! ## Witnesses: states and operands that meet each statement's hypotheses, one for each clause -/

theorem witness_DecodeOfEncodeIsTheInstruction :
    (Instr.splice 24#5 0xFF#8).wf 32 = true ∧ (Instr.cmdConfig 1#32 2#32 (2 ^ 64 - 1) 0 3#32 4#32).wf 40 = true ∧
    (Instr.cmdProgram true [0xAA#8]).wf 32 = true ∧ Instr.stepShiftChunk.wf 32 = true := by decide

theorem witness_DecodedWordsAreTheEncoding :
    decodeStream 32 [0x09000000#32, 7#32, 8#32] [] = .op (.ldw 7#32) [8#32] [] ∧
    decodeSelector 0x15#5 = some .stepPollDone := by decide

theorem witness_IllegalWordsAreExactlyThese :
    (∃ e, decodeStream 32 [0x0F000000#32] [] = .illegal e) ∧ (∃ e, decodeStream 32 [0x14000000#32] [] = .illegal e) ∧
    (∃ e, decodeStream 32 [0x13000001#32] [] = .illegal e) ∧ (∃ e, decodeStream 32 [0x02000019#32] [] = .illegal e) ∧
    (∀ e, decodeStream 32 [0x02000018#32] [] ≠ .illegal e) :=
  ⟨⟨.unassignedOp, by decide⟩, ⟨.unassignedOp, by decide⟩, ⟨.reservedBits, by decide⟩, ⟨.spliceOffset, by decide⟩,
    fun e h => by
      have h1 : decodeStream 32 [0x02000018#32] [] = .op (.splice 24#5 0#8) [] [] := by decide
      rw [h1] at h
      exact Fetched.noConfusion h⟩

theorem witness_PinsMasksAndRawBits :
    profileExa.wellFormed exampleParams = true ∧ profileExa8.wellFormed exampleParams = true := by decide

/-- Two fields that meet without overlap: offsets 16 and 24. -/
theorem witness_SpliceLaws : (16 ≤ 24 ∧ 24 ≤ 24) ∧ (16 + 8 ≤ 24 ∨ 24 + 8 ≤ 16) := by decide

theorem witness_BswapReversesTheWorkingWord : ∃ t u, exec .bswap exa = .next t ∧ exec .bswap t = .next u :=
  ⟨_, _, rfl, rfl⟩

theorem witness_SpliceOverwritesOneField : (24#5).toNat ≤ 24 ∧ 24 < (25#5).toNat := by decide

theorem witness_RdregReadsTheRegister :
    State.reset.cfgv = false ∧ (exa.cfgv = true ∧ exa.env.backend = .real) ∧
    ((simulated exa).cfgv = true ∧ (simulated exa).env.backend = .simulated) := by decide

theorem witness_WrregWritesTheRegister : State.reset.cfgv = false ∧ exa.cfgv = true ∧
    ((ctrl 0x80#32 0#32).banks.dir .ctrl).getLsbD 7 = true ∧ ((ctrl 0x80#32 0#32).banks.dir .ctrl).getLsbD 8 = false := by
  decide

theorem witness_SetbitSetsOnePin : State.reset.cfgv = false ∧ (ctrl 0x80#32 0#32).cfgv = true ∧
    (0#5 : BitVec 5) ≠ 9#5 ∧ ((ctrl 0x80#32 0#32).banks.dir .ctrl).getLsbD (rbit 0#5) = true := by decide

theorem witness_GetbitReadsOnePin : State.reset.cfgv = false ∧ exa.cfgv = true := by decide

theorem witness_PulseLowersThenRaisesThePin : State.reset.cfgv = false ∧ exa.cfgv = true := by decide

theorem witness_SetdirReleasesThenAsserts : State.reset.cfgv = false ∧ exa.cfgv = true := by decide

theorem witness_SetbitGetbitRoundTrip :
    ((simulated exa).cfgv = true ∧ (simulated exa).env.backend = .simulated) ∧
    ((ctrl 0x80#32 0#32).cfgv = true ∧ ((ctrl 0x80#32 0#32).banks.dir .ctrl).getLsbD (rbit 0#5) = true) ∧
    (exa.cfgv = true ∧ exa.env.backend = .real ∧ (exa.banks.dir .ctrl).getLsbD (rbit 0#5) = false) := by decide

/-- One operation that runs, and one that is refused. -/
theorem witness_PortOperationsLeaveTheSequencer :
    (portOperation (.setbit .ctrl true 18#5) = true ∧ does (.setbit .ctrl true 18#5) exa (fun t => !t.refused) = true) ∧
    (portOperation (.splice 25#5 0#8) = true ∧ does (.splice 25#5 0#8) exa (fun t => t.refused) = true) := by decide

theorem witness_RefusedOperationHasNoEffect : hostOperation .cmdResetOnly = true ∧
    does .cmdResetOnly State.reset (fun t => t.resp == none) = true ∧ hostOperation (.pulse .ctrl 31#5) = true ∧
    does (.pulse .ctrl 31#5) State.reset (fun t => t.resp == none) = true := by decide

theorem witness_SetupConfiguresTheDirections : (attempt stSetup false).profile.wellFormed (attempt stSetup false).params =
    true := by decide

theorem witness_ResetDrivesThePatternAndPulses :
    { attempt stReset false with ro := true }.ro = true ∧
    ((attempt stReset false).ro = false ∧ { attempt stReset false with iwb := 0#32 }.iwb = 0#32) ∧
    ((attempt stReset false).ro = false ∧ (attempt stReset false).iwb ≠ 0#32) := by decide

/-- A 1, the last permitted 0, an earlier 0. -/
theorem witness_WaitInitPollsOnce :
    let bit (s : State) := (s.rawRead .ctrl .dat).getLsbD (rbit s.profile.pinInit)
    let last : State := drive [0#32] { attempt stWaitInit false with poll := 4#32 }
    bit (drive [0x4000#32] (attempt stWaitInit false)) = true ∧
    (bit last = false ∧ last.poll + 1#32 = last.iwb) ∧
    (bit (drive [0#32] (attempt stWaitInit false)) = false ∧
      (drive [0#32] (attempt stWaitInit false)).poll + 1#32 ≠ (drive [0#32] (attempt stWaitInit false)).iwb) := by decide

theorem witness_FramingLowersRdwrThenCsi :
    { attempt stShifting false with n := 0#32 }.n = 0#32 ∧ (attempt stShifting false).n ≠ 0#32 := by decide

/-- The last chunk, and a chunk that is not the last. -/
theorem witness_ChunkGoesToItsLanes :
    let s := attempt stShifting true
    let b : State := { s with w := false }
    (s.profile.wellFormed s.params = true ∧ (s.w = true → s.profile.dataWidthBits = 16#5) ∧
      s.idx.toNat + 2 ≤ s.pay.length ∧ does .stepShiftChunk (drive [0#32, 0#32] s) (fun t => t.idx == s.n) = true) ∧
    (b.profile.wellFormed b.params = true ∧ (b.w = true → b.profile.dataWidthBits = 16#5) ∧
      b.idx.toNat + 1 ≤ b.pay.length ∧ does .stepShiftChunk (drive [0#32, 0#32] b) (fun t => t.idx != b.n) = true) := by
  decide

theorem witness_CheckInitOnceAfterTheShift :
    let bit (s : State) := (s.rawRead .ctrl .dat).getLsbD (rbit s.profile.pinInit)
    bit (drive [0x0800#32] (attempt stWaitDone false)) = false ∧
    (bit (drive [0x4000#32] { attempt stWaitDone false with dwb := 0#32 }) = true ∧
      (drive [0x4000#32] { attempt stWaitDone false with dwb := 0#32 }).dwb = 0#32) ∧
    (bit (drive [0x4000#32] (attempt stWaitDone false)) = true ∧
      (drive [0x4000#32] (attempt stWaitDone false)).dwb ≠ 0#32) := by decide

theorem witness_PollDoneOnce :
    let bit (s : State) := (s.rawRead .ctrl .dat).getLsbD (rbit s.profile.pinDone)
    let last : State := drive [0#32] { attempt stWaitDone true with poll := 4#32 }
    bit (drive [0x0800#32] (attempt stWaitDone true)) = true ∧
    (bit last = false ∧ last.poll + 1#32 = last.dwb) ∧
    (bit (drive [0#32] (attempt stWaitDone true)) = false ∧
      (drive [0#32] (attempt stWaitDone true)).poll + 1#32 ≠ (drive [0#32] (attempt stWaitDone true)).dwb) := by decide

/-- The eighth pulse, and an earlier one. -/
theorem witness_CompletingPulsesTheClock :
    does .stepCompleting (drive [0#32] { attempt stCompleting false with scnt := 7#4 }) (fun t => t.scnt == 8#4) = true ∧
    does .stepCompleting (drive [0#32] { attempt stCompleting false with scnt := 6#4 }) (fun t => t.scnt != 8#4) = true := by
  decide

/-! The busy states of an attempt meet the invariant, whatever TARGET drives. -/

theorem inv_setup (ro : Bool) : { attempt stSetup false with ro := ro, banks := ⟨0#32, 0#32, 0#32, 0#32⟩ }.Inv := by
  cases ro
  · exact inv_of (by decide)
  · exact inv_of (by decide)

theorem inv_reset : (attempt stReset false).Inv ∧ { attempt stReset false with ro := true }.Inv ∧
    { attempt stReset false with iwb := 0#32 }.Inv :=
  ⟨inv_of (by decide), inv_of (by decide), inv_of (by decide)⟩

/-- The two halves of the rows of WAIT_INIT: a 1, the last permitted 0, an earlier 0. -/
theorem inv_wait_init : (drive [0x4000#32] (attempt stWaitInit false)).Inv ∧
    (drive [0#32] { attempt stWaitInit false with poll := 4#32 }).Inv ∧ (drive [0#32] (attempt stWaitInit false)).Inv :=
  ⟨inv_of (by decide), inv_of (by decide), inv_of (by decide)⟩

theorem inv_shifting :
    { attempt stShifting false with n := 0#32, pay := [] }.Inv ∧ (attempt stShifting false).Inv ∧
    (attempt stShifting true).Inv ∧ { attempt stShifting true with w := false }.Inv :=
  ⟨inv_of (by decide), inv_of (by decide), inv_of (by decide), inv_of (by decide)⟩

theorem inv_check_init : (drive [0x0800#32] (attempt stWaitDone false)).Inv ∧
    (drive [0x4000#32] { attempt stWaitDone false with dwb := 0#32 }).Inv ∧
    (drive [0x4000#32] (attempt stWaitDone false)).Inv :=
  ⟨inv_of (by decide), inv_of (by decide), inv_of (by decide)⟩

theorem inv_poll_done : (drive [0x0800#32] (attempt stWaitDone true)).Inv ∧
    (drive [0#32] { attempt stWaitDone true with poll := 4#32 }).Inv ∧ (drive [0#32] (attempt stWaitDone true)).Inv :=
  ⟨inv_of (by decide), inv_of (by decide), inv_of (by decide)⟩

theorem inv_completing : { attempt stCompleting false with scnt := 7#4 }.Inv ∧
    { attempt stCompleting false with scnt := 6#4 }.Inv :=
  ⟨inv_of (by decide), inv_of (by decide)⟩

theorem inv_terminal : (attempt stDone false).Inv ∧ (attempt stFailed false).Inv :=
  ⟨inv_of (by decide), inv_of (by decide)⟩

/-- The hypotheses of the rows that speak of the state after the step, on the states of the theorems above; the others
are fields of those states. -/
theorem witness_TransitionTable :
    (attempt stWaitInit false).busy = true ∧
    runs 1 (drive [0#32] { attempt stWaitInit false with poll := 4#32 }) (fun t => t.poll == t.iwb) = true ∧
    runs 1 (drive [0#32] (attempt stWaitInit false)) (fun t => t.poll != t.iwb) = true ∧
    runs 1 (drive [0#32, 0#32] (attempt stShifting true)) (fun t => t.idx == t.n) = true ∧
    runs 1 (drive [0#32, 0#32] { attempt stShifting true with w := false }) (fun t => t.idx != t.n) = true ∧
    runs 1 (drive [0#32] { attempt stWaitDone true with poll := 4#32 }) (fun t => t.poll == t.dwb) = true ∧
    runs 1 (drive [0#32] (attempt stWaitDone true)) (fun t => t.poll != t.dwb) = true ∧
    runs 1 (drive [0#32] { attempt stCompleting false with scnt := 7#4 }) (fun t => t.scnt == 8#4) = true ∧
    runs 1 (drive [0#32] { attempt stCompleting false with scnt := 6#4 }) (fun t => t.scnt != 8#4) = true ∧
    does (.cmdProgram true []) exa (fun t => t.resp != none) = true ∧
    does .cmdResetOnly exa (fun t => t.resp != none) = true := by decide

theorem witness_SequencerStepFrame : hostOperation .stepShiftChunk = false ∧
    does .stepShiftChunk (attempt stShifting true) (fun _ => true) = true ∧ hostOperation .stepIdle = false := by decide

/-- Pin 1 is no signal of EXA and pin 7 is off its bus; both can be outputs. -/
theorem witness_ForeignBitsAreKept :
    hostOperation .stepShiftChunk = false ∧ (attempt stShifting true).profile.wellFormed (attempt stShifting true).params =
      true ∧ does .stepShiftChunk (attempt stShifting true) (fun _ => true) = true ∧
    profileExa.pins.contains 1#5 = false ∧ onBus profileExa 7#5 = false ∧
    ({ attempt stShifting true with banks := ⟨0xFFFFB7FF#32, 0#32, 0xFFFFFFFF#32, 0#32⟩ }.banks.dirCtrl.getLsbD (rbit 1#5) =
      true) := by decide

/-- A failure of each kind: at RESET, at the last poll of INIT, at the re-check, at the last poll of DONE. -/
theorem witness_FailureRecordsItsCause :
    runs 1 { attempt stReset false with iwb := 0#32 } (fun t => t.st == stFailed) = true ∧
    runs 1 (drive [0#32] { attempt stWaitInit false with poll := 4#32 }) (fun t => t.st == stFailed) = true ∧
    runs 1 (drive [0x0800#32] (attempt stWaitDone false)) (fun t => t.st == stFailed) = true ∧
    runs 1 (drive [0#32] { attempt stWaitDone true with poll := 4#32 }) (fun t => t.st == stFailed) = true := by decide

theorem witness_ResetOnlyTakesTwoSteps : ∃ s : State, s.Inv ∧ s.st = stSetup ∧ s.ro = true :=
  ⟨_, inv_setup true, by decide, rfl⟩

theorem witness_ExactlyOneChunkStepPerChunk :
    (attempt stShifting false).Inv ∧ (attempt stShifting false).st = stShifting ∧ (attempt stShifting false).ph = false ∧
    0 < (attempt stShifting false).n.toNat ∧ 1 ≤ (attempt stShifting false).chunks ∧
    ({ attempt stShifting false with w := false }.Inv ∧ 1 < { attempt stShifting false with w := false }.chunks) :=
  ⟨inv_shifting.2.1, by decide, by decide, by decide, by decide, inv_of (by decide), by decide⟩

/-- TARGET holds every pin low for ten reads. -/
def silent : State := drive (List.replicate 10 0#32) (attempt stSetup false)

theorem witness_InitNeverReadyTimesOut :
    silent.Inv ∧ (silent.st = stSetup ∧ silent.ro = false ∧ silent.env.backend = .real ∧
      5 + silent.iwb.toNat ≤ silent.env.target.length) ∧
      ∀ v ∈ silent.env.target, v.getLsbD (rbit silent.profile.pinInit) = false := by
  refine ⟨inv_of (by decide), by decide, fun v hv => ?_⟩
  rw [List.eq_of_mem_replicate hv]
  exact BitVec.getLsbD_zero

/-- TARGET raises INIT for one read and then holds every pin low. -/
def unfinished : State := drive (0x4000#32 :: List.replicate 5 0#32) (attempt stWaitDone false)

theorem witness_DoneNeverHighTimesOut :
    unfinished.Inv ∧ (unfinished.st = stWaitDone ∧ unfinished.ph = false ∧ unfinished.env.backend = .real) ∧
      unfinished.env.target = 0x4000#32 :: List.replicate 5 0#32 ∧
      (0x4000#32).getLsbD (rbit unfinished.profile.pinInit) = true ∧
      unfinished.dwb.toNat ≤ (List.replicate 5 0#32).length ∧
      ∀ u ∈ List.replicate 5 0#32, u.getLsbD (rbit unfinished.profile.pinDone) = false := by
  refine ⟨inv_of (by decide), by decide, rfl, by decide, by decide, fun u hu => ?_⟩
  rw [List.eq_of_mem_replicate hu]
  exact BitVec.getLsbD_zero

theorem witness_EveryAttemptTerminates : (attempt stShifting true).Inv ∧ (attempt stShifting true).busy = true :=
  ⟨inv_shifting.2.2.1, by decide +kernel⟩

/-- An attempt with bounds 1 and the simulated backend, where INIT and DONE read what is in the latch. -/
def short (latch : Word) : State :=
  { simulated (attempt stSetup false) with banks := ⟨0#32, latch, 0#32, 0#32⟩, iwb := 1#32, dwb := 1#32, n := 0#32, pay := [] }

theorem inv_short : (short 0x4800#32).Inv ∧ (short 0x4000#32).Inv ∧ (short 0#32).Inv :=
  ⟨inv_of (by decide +kernel), inv_of (by decide +kernel), inv_of (by decide +kernel)⟩

/-- `f` of a number that has been evaluated. -/
def forced {α : Type} (x : Nat) (f : Nat → α) : α := Nat.rec (f 0) (fun m _ => f (m + 1)) x

theorem forced_eq {α : Type} (x : Nat) (f : Nat → α) : forced x f = f x := by cases x <;> rfl

/-- The same state with its counters and its control latch evaluated. -/
def evaluated (s : State) : State :=
  forced s.banks.outCtrl.toNat fun a => forced s.st.toNat fun b => forced s.poll.toNat fun c => forced s.scnt.toNat fun d =>
    { s with banks := { s.banks with outCtrl := BitVec.ofNat 32 a }, st := BitVec.ofNat 4 b, poll := BitVec.ofNat 32 c
             scnt := BitVec.ofNat 4 d }

theorem evaluated_eq (s : State) : evaluated s = s := by simp [evaluated, forced_eq]

/-- The sequencer is busy before each of `k` steps, and `p` holds after them. -/
def busyRun : Nat → State → (State → Bool) → Bool
  | 0, s, p => p s
  | k + 1, s, p =>
    s.busy && match seqStep s with
      | .next t => busyRun k (evaluated t) p
      | _ => false

theorem busyRun_run {k : Nat} {s : State} {p : State → Bool} (h : busyRun k s p = true) :
    (∀ j u, j < k → seqRun j s = .next u → u.busy = true) ∧ ∃ t, seqRun k s = .next t ∧ p t = true := by
  induction k generalizing s with
  | zero => exact ⟨fun j u hj => absurd hj (Nat.not_lt_zero j), s, rfl, h⟩
  | succ k ih =>
    rw [busyRun, Bool.and_eq_true] at h
    obtain ⟨hb, h⟩ := h
    cases hs : seqStep s with
    | next t =>
      rw [hs] at h
      change busyRun k (evaluated t) p = true at h
      rw [evaluated_eq] at h
      obtain ⟨h1, h2⟩ := ih h
      have hr : ∀ j, seqRun (j + 1) s = seqRun j t := fun j => by rw [seqRun, hs]
      refine ⟨fun j u hj hu => ?_, by rw [hr]; exact h2⟩
      cases j with
      | zero => cases hu; exact hb
      | succ j => exact h1 j u (Nat.lt_of_succ_lt_succ hj) (hr j ▸ hu)
    | fault r => rw [hs] at h; exact Bool.noConfusion h
    | refused r => rw [hs] at h; exact Bool.noConfusion h

/-- A success after 14 steps and the three failures; in each, the attempt is busy up to the last step. The re-check's
failure needs a level that changes: TARGET's script has INIT at 1 at the poll of WAIT_INIT and at 0 at the re-check. -/
theorem witness_TransactionsOfAnAttempt :
    let meets (s : State) (k : Nat) (r : Reason) : Prop :=
      s.Inv ∧ s.st = stSetup ∧ s.ro = false ∧ (∀ j u, j < k → seqRun j s = .next u → u.busy = true) ∧
        ∃ t, seqRun k s = .next t ∧ (!t.busy && t.reason == r && (t.st == stDone) == (r == .none)) = true
    meets (short 0x4800#32) 14 .none ∧ meets (short 0#32) 3 .initTimeout ∧
      meets (drive [0#32, 0#32, 0#32, 0#32, 0#32, 0x4000#32, 0#32, 0#32, 0#32, 0#32, 0#32, 0#32, 0#32]
        { attempt stSetup false with n := 0#32, pay := [] }) 5 .programmingRejected ∧
      meets (short 0x4000#32) 6 .doneTimeout :=
  ⟨⟨inv_short.1, rfl, rfl, busyRun_run (by decide +kernel)⟩, ⟨inv_short.2.2, rfl, rfl, busyRun_run (by decide +kernel)⟩,
    ⟨inv_of (by decide), rfl, rfl, busyRun_run (by decide +kernel)⟩,
    ⟨inv_short.2.1, rfl, rfl, busyRun_run (by decide +kernel)⟩⟩

/-- The CONFIG of EXA meets every condition; a width of 12 meets one less. -/
theorem witness_ConfigLoadsOnlyAWellFormedProfile :
    ConfigOk exampleParams 0x00996FEC#32 0x00001008#32 0x10000000 0x10000100 ∧
    ¬ ConfigOk exampleParams 0x00996FEC#32 0x00000C08#32 0x10000000 0x10000100 := by
  refine ⟨⟨by decide, by decide, ?_, by decide, ?_, by decide, by decide, by decide, by decide⟩, fun h => ?_⟩
  · have h : ∀ i < 6, ∀ j < 6, i ≠ j →
        (0x00996FEC#32).extractLsb' (5 * i) 5 ≠ (0x00996FEC#32).extractLsb' (5 * j) 5 := by decide
    exact fun i j hi hj => h i hi j hj
  · have h : ∀ k < 32, k = 5 ∨ k = 6 ∨ k = 7 ∨ (13 ≤ k ∧ k < 32) → (0x00001008#32).getLsbD k = false := by decide
    exact fun k hk => h k (by omega) hk
  · exact absurd h.width (by decide)

/-- Both width codes, on the bus that has both lanes. -/
theorem witness_ProgramStartsAnAttempt : exa.cfgv = true ∧ [0xAA#8, 0x55#8].length < 2 ^ 32 ∧
    exa.profile.dataWidthBits ≠ 8#5 ∧ [0xAA#8, 0x55#8].length % 2 = 0 := by decide

theorem witness_ProgramRefusalsInOrder : [0xAA#8].length < 2 ^ 32 ∧ State.reset.cfgv = false ∧
    (exa8.cfgv = true ∧ exa8.profile.dataWidthBits = 8#5) ∧
    (exa.cfgv = true ∧ exa.profile.dataWidthBits ≠ 8#5 ∧ [0xAA#8].length % 2 = 1) := by decide

theorem witness_ResetOnlyStartsAnAttempt : State.reset.cfgv = false ∧ exa.cfgv = true := by decide

theorem witness_OverlongPayloadFaults : ∃ pay : List Byte, 2 ^ 32 ≤ pay.length := by
  have h : ∀ n : Nat, ∃ pay : List Byte, n ≤ pay.length := fun n => ⟨List.replicate n 0#8, by simp⟩
  exact h _

/-- HOST 0 moves, with given words in its stream. -/
def hostMoves (ws : List Word) (s : State) : State :=
  { s with hosts := [⟨ws, [], [], none⟩], env := { s.env with sched := [.host 0] } }

/-- A sequencer's move; an operation while idle; CMD.STATUS while busy. -/
theorem witness_StepRunsTheDecodedInstruction :
    ({ attempt stReset false with env := ⟨.real, [], [.seq], 0, 0⟩ }.nextMove = .seq ∧
      decodeSelector { attempt stReset false with env := ⟨.real, [], [.seq], 0, 0⟩ }.selector = some .stepReset) ∧
    ((hostMoves [0x01000000#32] exa).nextMove = .host 0 ∧
      (hostMoves [0x01000000#32] exa).hosts[0]? = some ⟨[0x01000000#32], [], [], none⟩ ∧
      decodeStream 32 [0x01000000#32] [] = .op .bswap [] [] ∧ (hostMoves [0x01000000#32] exa).busy = false) ∧
    ((hostMoves [0x13000000#32] (attempt stReset false)).busy = true ∧
      decodeStream 32 [0x13000000#32] [] = .op .cmdStatus [] []) := by decide

theorem witness_LockHoldsOperationsWhileBusy :
    let s (w : Word) := hostMoves [w] (attempt stReset false)
    (s 0x01000000#32).nextMove = .host 0 ∧ (s 0x01000000#32).hosts[0]? = some ⟨[0x01000000#32], [], [], none⟩ ∧
    (decodeSelector (s 0x01000000#32).selector).isSome = true ∧ (s 0x01000000#32).busy = true ∧
    decodeStream (s 0x01000000#32).params.addrWidth [0x01000000#32] [] = .op .bswap [] [] ∧
    decodeStream (s 0x13000000#32).params.addrWidth [0x13000000#32] [] = .op .cmdStatus [] [] := by decide

theorem witness_IllegalWordIsRefusedAtOnce :
    let s := hostMoves [0x0A000000#32] (attempt stReset false)
    s.nextMove = .host 0 ∧ s.hosts[0]? = some ⟨[0x0A000000#32], [], [], none⟩ ∧
    (decodeSelector s.selector).isSome = true ∧
    decodeStream s.params.addrWidth [0x0A000000#32] [] = .illegal .unassignedOp := by decide

/-- A release while busy, one while idle, and the second of two held operations. -/
theorem witness_OneHeldOperationIsReleased :
    let held : List HeldOp := [⟨0, .bswap, 3⟩, ⟨0, .cmdResetOnly, 3⟩]
    let s (base : State) : State := { base with held := held, env := ⟨.real, [], [.release 1], 0, 0⟩ }
    ((s (attempt stReset false)).nextMove = .release 1 ∧ (decodeSelector (s (attempt stReset false)).selector).isSome =
      true ∧ (s (attempt stReset false)).busy = true) ∧
    ((s exa).busy = false ∧ (s exa).held ≠ [] ∧ (decodeSelector (s exa).selector).isSome = true ∧
      (s exa).held = [⟨0, .bswap, 3⟩] ++ ⟨0, .cmdResetOnly, 3⟩ :: [] ∧
      (s exa).env.sched = .release [(⟨0, .bswap, 3⟩ : HeldOp)].length :: []) ∧
    ((s (attempt stReset false)).Inv ∧ (s exa).Inv ∧ 1 < (s exa).held.length) :=
  ⟨by decide, by decide, inv_of (by decide), inv_of (by decide), by decide⟩

theorem witness_ReservedSelectorSetsFault :
    let s : State := { exa with ph := true, env := ⟨.real, [], [.seq], 0, 0⟩ }
    decodeSelector s.selector = none ∧ s.nextMove = .seq ∧ steps s (fun _ => true) = true := by decide

theorem witness_EveryStepKeepsTheInvariant :
    (attempt stShifting true).Inv ∧
    steps { attempt stShifting true with env := ⟨.real, [], [.seq], 0, 0⟩ } (fun _ => true) = true :=
  ⟨inv_shifting.2.2.1, by decide⟩

theorem witness_PowerOnMeetsTheInvariant : PowerOn.chosen.params.wellFormed = true := by decide

theorem witness_PowerOnResetValues :
    State.reset.busy = false ∧ State.reset.held = [] ∧ (∀ h ∈ State.reset.hosts, h.stream = [] ∧ h.run = none) ∧
    steps { State.reset with env := ⟨.real, [], [.seq], 0, 0⟩ } (fun _ => true) = true := by decide

theorem witness_ProfileIsFixedDuringAnAttempt :
    (hostMoves [0x01000000#32] (attempt stReset false)).busy = true ∧
    steps (hostMoves [0x01000000#32] (attempt stReset false)) (fun _ => true) = true := by decide

/-- From FAILED: a step that stays, and the start of a new attempt. -/
theorem witness_NoAttemptIsResumed :
    (hostMoves [0x12000000#32] (attempt stFailed false)).Inv ∧
    steps (hostMoves [0x12000000#32] (attempt stFailed false)) (fun t => t.st == stSetup) = true ∧
    (hostMoves [0x13000000#32] (attempt stDone false)).Inv ∧
    steps (hostMoves [0x13000000#32] (attempt stDone false)) (fun t => t.st == stDone) = true :=
  ⟨inv_of (by decide), by decide, inv_of (by decide), by decide⟩

theorem witness_MarksAndTraceOnlyGrow :
    steps (hostMoves [0x01000000#32] { exa with refused := true, fault := true }) (fun t => t.refused && t.fault) =
      true := by decide

theorem witness_TraceAccountsForTheBanks :
    exa.profile.wellFormed exa.params = true ∧ does .stepSetup exa (fun t => t.trace.length == 6) = true := by decide

/-- HOST 0 with a run. -/
def withRun (phase : RunPhase) (attempts : Nat) (source : List Byte) (images : List ImageResult)
    (inbox : List Response) : State :=
  { exa with runLock := some 0, hosts := [⟨[], [], inbox, some ⟨[0x41#8], 2, source, 5#32, 5#32, images, phase, attempts,
      some .initTimeout⟩⟩] }

/-- The third attempt is made, a fourth is not; a scripted payload and a scripted failure; an empty script, where the free
value is a payload or one of the three failures. -/
theorem witness_RunMakesAtMostThreeAttempts :
    ((∀ h ∈ (withRun .nextAttempt 3 [] [] []).hosts, ∀ r ∈ h.run.toList, r.attempts ≤ 3) ∧
      steps { withRun .nextAttempt 2 [] [.unavailable] [] with env := ⟨.real, [], [.run 0], 0, 0⟩ }
        (fun t => t.hosts.all (fun h => h.run.toList.all (fun r => r.attempts == 3))) = true) ∧
    (3 ≤ 3 ∧ (withRun .nextAttempt 3 [] [] []).runLock = some 0) ∧
    (∃ h r, (withRun .nextAttempt 2 [] [.payload [0xAA#8]] []).hosts[0]? = some h ∧ h.run = some r ∧
      r.phase = .nextAttempt ∧ r.attempts < 3 ∧ r.images = .payload [0xAA#8] :: []) ∧
    (∃ h r, (withRun .nextAttempt 2 [] [.truncated] []).hosts[0]? = some h ∧ h.run = some r ∧
      r.phase = .nextAttempt ∧ r.attempts < 3 ∧ r.images = .truncated :: []) ∧
    (∃ h r, (withRun .nextAttempt 2 [] [] []).hosts[0]? = some h ∧ h.run = some r ∧
      r.phase = .nextAttempt ∧ r.attempts < 3 ∧ r.images = [] ∧
      ((∃ pay, Config.freeImage 0 = .payload pay) ∨ Config.freeImage 0 = .unavailable ∨
        Config.freeImage 0 = .corruptHeader ∨ Config.freeImage 0 = .truncated)) := by
  refine ⟨by decide, by decide, ⟨_, _, rfl, rfl, rfl, by decide, rfl⟩, ⟨_, _, rfl, rfl, rfl, by decide, rfl⟩,
    ⟨_, _, rfl, rfl, rfl, by decide, rfl, ?_⟩⟩
  cases Config.freeImage 0 <;> simp

/-- A run that has issued CMD.STATUS, has it held, or has its answer unread: in step. -/
theorem inStep_status (inbox : List Response) (h : inbox = [] ∨ ∃ v, inbox = [⟨.cmdStatus, v⟩]) :
    (withRun .awaitStatus 1 [] [] inbox).RunsInStep := by
  intro k h' r hk hr _
  cases k with
  | succ k => exact absurd hk (by simp [withRun])
  | zero =>
    simp only [withRun, List.getElem?_cons_zero, Option.some.injEq] at hk
    subst hk
    cases hr
    refine ⟨.inl ⟨rfl, rfl, ?_⟩, fun _ => rfl, fun h => absurd h (by decide)⟩
    obtain rfl | ⟨v, rfl⟩ := h
    · exact .inl rfl
    · exact .inr ⟨.cmdStatus, rfl, rfl⟩

/-- Status words of a poll, a success, and a failure; HOSTs with a run that has not begun; a step in step; a run with its
answer and one without. -/
theorem witness_RunActsOnTheStatusWord :
    (∃ h r, (withRun .awaitStatus 1 [] [] [⟨.cmdStatus, 0x00000303#32⟩]).hosts[0]? = some h ∧ h.run = some r ∧
      r.phase = .awaitStatus ∧ h.inbox = ⟨.cmdStatus, 0x00000303#32⟩ :: [] ∧
      (withRun .awaitStatus 1 [] [] [⟨.cmdStatus, 0x00000303#32⟩]).runLock = some 0 ∧
      isResetSentinel r.imageSource = false) ∧
    ((0x00000303#32).getLsbD 8 = true ∧
    ((0x00000207#32).getLsbD 8 = false ∧ (0x00000207#32).extractLsb' 0 4 = 0x7#4) ∧
    ((0x00000288#32).getLsbD 8 = false ∧ (0x00000288#32).extractLsb' 0 4 = 0x8#4 ∧
      (0x00000288#32).extractLsb' 6 2 = 2#2)) ∧
    (∀ h ∈ (withRun .waitLock 0 [] [] []).hosts, ∀ r ∈ h.run.toList, r.phase = .waitLock) ∧
    ((withRun .awaitStatus 1 [] [] [⟨.cmdStatus, 0x00000303#32⟩]).RunsInStep ∧
      (withRun .awaitStatus 1 [] [] []).RunsInStep) ∧
    steps { withRun .awaitStatus 1 [] [] [⟨.cmdStatus, 0x00000303#32⟩] with env := ⟨.real, [], [.run 0], 0, 0⟩ }
      (fun t => t.hosts.map HostAgent.stream == [[0x13000000#32]]) = true :=
  ⟨⟨_, _, rfl, rfl, rfl, rfl, rfl, by decide⟩, by decide, by decide,
    ⟨inStep_status _ (.inr ⟨_, rfl⟩), inStep_status _ (.inl rfl)⟩, by decide⟩

/-- HOST 0's run is about to begin, with given words, held operations and responses from before. -/
def beforeRun (stream : List Word) (held : List HeldOp) (inbox : List Response) : State :=
  { withRun .waitLock 0 [] [] inbox with
    runLock := none, held := held
    hosts := (withRun .waitLock 0 [] [] inbox).hosts.map (fun h => { h with stream := stream }) }

/-- A run waits while a word from before is in the stream or held; a response from before is not taken for an answer. -/
theorem test_run_reads_its_own_responses :
    (beforeRun [0x13000000#32] [] []).runHost 0 = beforeRun [0x13000000#32] [] [] ∧
    (beforeRun [] [⟨0, .bswap, 3⟩] []).runHost 0 = beforeRun [] [⟨0, .bswap, 3⟩] [] ∧
    ((beforeRun [] [] [⟨.cmdStatus, 0x207#32⟩]).runHost 0).hosts.map HostAgent.inbox = [[]] ∧
    (withRun .awaitStart 1 [] [] [⟨.cmdStatus, 0x207#32⟩]).runHost 0 =
      withRun .awaitStart 1 [] [] [⟨.cmdStatus, 0x207#32⟩] := by decide

/-- Board "A" is recognised once, board "Z" is not; the bases fit their words; a run that cannot begin yet. -/
theorem witness_RunConfiguresTheResolvedBoard :
    (∃ h r, (beforeRun [] [] []).hosts[0]? = some h ∧ h.run = some r ∧ (beforeRun [] [] []).runLock = none ∧
      h.stream = [] ∧ (∀ o ∈ (beforeRun [] [] []).held, o.host ≠ 0) ∧
      r.phase = .waitLock ∧ ([0x41#8], profileExa) ∈ exampleParams.boards ∧ r.boardId = [0x41#8] ∧
      ∀ x ∈ exampleParams.boards, x.1 = r.boardId → x.2 = profileExa) ∧
    (∀ x ∈ exampleParams.boards, x.1 ≠ [0x5A#8]) ∧
    (profileExa.ctrlBase < 2 ^ (32 * baseWords 32) ∧ profileExa.dataBase < 2 ^ (32 * baseWords 32)) ∧
    ((withRun .waitLock 0 [] [] []).runLock ≠ none ∧
      ∃ o ∈ (beforeRun [] [⟨0, .bswap, 3⟩] []).held, o.host = 0) :=
  ⟨⟨_, _, rfl, rfl, rfl, rfl, by decide, rfl, by decide, rfl, by decide⟩, by decide, by decide, by decide⟩

/-- "RESET". -/
theorem witness_ResetSentinelIssuesResetOnly :
    ∃ h r, (withRun .awaitConfig 0 [0x52#8, 0x45#8, 0x53#8, 0x45#8, 0x54#8] []
        [⟨.cmdConfig 0#32 0#32 0 0 0#32 0#32, 0#32⟩]).hosts[0]? = some h ∧
      h.run = some r ∧ r.phase = .awaitConfig ∧ h.inbox = ⟨.cmdConfig 0#32 0#32 0 0 0#32 0#32, 0#32⟩ :: [] ∧
      isResetSentinel r.imageSource = true :=
  ⟨_, _, rfl, rfl, rfl, rfl, by decide⟩

/-- The last value inside each range and the first outside it; the pin as a number and as a signal name; a line of five
operations. -/
theorem witness_AssembledLinesAreWellFormed :
    ((24#5).toNat ≤ 24 ∧ 24 < 25 ∧ 256 ≤ 256 ∧ 32 ≤ 32 ∧ 2 ≤ 2) ∧
    (PinOperand.index 31 = .index (31#5).toNat ∧ profileExa.pin .csi = 18#5) ∧
    (2 ^ 32 - 1 < 2 ^ (32 * baseWords 32) ∧ 2 ^ (32 * baseWords 32) ≤ 2 ^ 32 ∧ [0xAA#8].length < 2 ^ 32 ∧
      (0 ≠ 1 ∧ 0 ≠ 2) ∧ (3 ≠ 1 ∧ 3 ≠ 2)) ∧
    (AsmLine.putb 24 0xFF).expand 40 profileExa8 =
      .ok [.rdreg .data .dat, .bswap, .splice 24#5 0xFF#8, .bswap, .wrreg .data .dat] ∧
    (AsmLine.setbit .data (.signal .init) 1).expand 40 profileExa8 = .error .signalOnData :=
  ⟨by decide, by decide, by decide, rfl, rfl⟩

end Sys2Proof.Tests
end

section
/-! PROOFS. The pins of the banks: their masks and raw bits, and the masks of SETUP (20_memory.md). -/

namespace Sys2Proof

/-- The data bus runs from its start bit to the last pin, both included: the width of a well-formed profile is not 0, so
the subtraction does not cut off. -/
theorem onBus_eq_inclusive {q : Params} {p : Profile} (h : p.wellFormed q = true) (i : BitVec 5) :
    Machine.onBus p i = decide (p.dataStartBit.toNat ≤ i.toNat ∧
      i.toNat ≤ p.dataStartBit.toNat + p.dataWidthBits.toNat - 1) := by
  obtain ⟨hw, -⟩ := wf_bus h
  have hpos : 0 < p.dataWidthBits.toNat := by rcases hw with hw | hw <;> simp [hw]
  rw [Machine.onBus, ← Bool.decide_and]
  exact decide_eq_decide.mpr (by omega)

/-- Settles O5: the pins of a swapped word are its raw bits (`bswap32_lmask`, `pinOf_bswap32`), and each mask of SETUP is
known pin by pin. -/
theorem pinsMasksAndRawBits : Obligations.PinsMasksAndRawBits := by
  refine ⟨fun i => ⟨rfl, bswap32_lmask i, fun raw => pinOf_bswap32 raw i⟩, fun q p i h => ⟨?ctrlOut, ?ctrlIn, ?dataOut⟩⟩
  case ctrlOut => exact pinOf_ctrlOut p i
  case ctrlIn => exact pinOf_ctrlIn p i
  case dataOut => exact (pinOf_dataOut h i).trans (onBus_eq_inclusive h i)

end Sys2Proof
end

section
/-! PROOFS. The operation words of the port operations as 41_port_primitives.md writes them, and what they decode to. -/

namespace Sys2Proof

open Machine Laws

/-! ## The words -/

/-- The layout of 30_encoding.md R69 as a disjunction of shifted fields. -/
theorem odw_eq_or (op : BitVec 8) (b v r : BitVec 1) (i : BitVec 5) (y : Byte) (o : BitVec 5) :
    odw op b v r i y o = op.setWidth 32 <<< 24 ||| b.setWidth 32 <<< 23 ||| v.setWidth 32 <<< 22 |||
      r.setWidth 32 <<< 21 ||| i.setWidth 32 <<< 16 ||| y.setWidth 32 <<< 8 ||| o.setWidth 32 := by
  apply BitVec.eq_of_getLsbD_eq
  intro k hk
  rw [odw_getLsbD]
  interval_cases k <;> simp

@[simp] theorem bankCode_field (b : Bank) :
    (bankCode b).setWidth 32 <<< 23 = if b = .data then 0x00800000#32 else 0#32 := by cases b <;> rfl

@[simp] theorem valueCode_field (v : Bool) :
    (BitVec.ofBool v).setWidth 32 <<< 22 = if v then 0x00400000#32 else 0#32 := by cases v <;> rfl

@[simp] theorem regCode_field (r : Reg) :
    (regCode r).setWidth 32 <<< 21 = if r = .dat then 0x00200000#32 else 0#32 := by cases r <;> rfl

theorem splice_words (aw : Nat) (o : BitVec 5) (y : Byte) : (encode aw (.splice o y)).words =
    [0x02000000#32 ||| y.setWidth 32 <<< 8 ||| o.setWidth 32] := by
  simp [encode, Encoding.words, odw_eq_or]

theorem setbit_words (aw : Nat) (b : Bank) (v : Bool) (i : BitVec 5) : (encode aw (.setbit b v i)).words =
    [0x03000000#32 ||| (if b = .data then 0x00800000#32 else 0#32) ||| (if v then 0x00400000#32 else 0#32) |||
      i.setWidth 32 <<< 16] := by
  simp [encode, Encoding.words, odwPort, odw_eq_or]

theorem getbit_words (aw : Nat) (b : Bank) (i : BitVec 5) : (encode aw (.getbit b i)).words =
    [0x04000000#32 ||| (if b = .data then 0x00800000#32 else 0#32) ||| i.setWidth 32 <<< 16] := by
  simp [encode, Encoding.words, odwPort, odw_eq_or]

theorem pulse_words (aw : Nat) (b : Bank) (i : BitVec 5) : (encode aw (.pulse b i)).words =
    [0x05000000#32 ||| (if b = .data then 0x00800000#32 else 0#32) ||| i.setWidth 32 <<< 16] := by
  simp [encode, Encoding.words, odwPort, odw_eq_or]

theorem setdir_words (aw : Nat) (b : Bank) (outMask inMask : Word) : (encode aw (.setdir b outMask inMask)).words =
    [0x06000000#32 ||| (if b = .data then 0x00800000#32 else 0#32), outMask, inMask] := by
  simp [encode, Encoding.words, odwPort, odw_eq_or]

theorem rdreg_words (aw : Nat) (b : Bank) (r : Reg) : (encode aw (.rdreg b r)).words =
    [0x07000000#32 ||| (if b = .data then 0x00800000#32 else 0#32) |||
      (if r = .dat then 0x00200000#32 else 0#32)] := by
  simp [encode, Encoding.words, odwPort, odw_eq_or]

theorem wrreg_words (aw : Nat) (b : Bank) (r : Reg) : (encode aw (.wrreg b r)).words =
    [0x08000000#32 ||| (if b = .data then 0x00800000#32 else 0#32) |||
      (if r = .dat then 0x00200000#32 else 0#32)] := by
  simp [encode, Encoding.words, odwPort, odw_eq_or]

/-! ## What they decode to -/

/-- A stream that begins with a legal word is read by that word's fields. -/
theorem decodeStream_legal {w : Word} {c : Opcode} (h : classify w = .ok c) (aw : Nat) (rest : List Word)
    (pays : List (List Byte)) : decodeStream aw (w :: rest) pays = decodeFields aw c w rest pays := by
  rw [decodeStream, h]

/-- An operation's words are read by the fields of the first of them. -/
theorem decodeStream_encode {aw : Nat} {i : Instr} {c : Opcode} (hs : FirstWord.Statement i)
    (hc : FirstWord.opcodeOf i = some c) (hwf : i.wf aw = true) (rest : List Word) (pays : List (List Byte)) :
    decodeStream aw ((encode aw i).words ++ rest) pays =
      decodeFields aw c ((encode aw i).words.headD 0) ((encode aw i).words.tail ++ rest) pays := by
  have h := hs aw hwf
  rw [hc] at h
  obtain ⟨w, ws, hw, hl, -⟩ := h
  rw [hw]
  exact decodeStream_legal hl aw _ pays

/-- The words of a port operation decode to it, whatever follows them: each field is read back from its place. -/
theorem decodeStream_portOperation {aw : Nat} {i : Instr} {ws : List Word} (hp : portOperation i = true)
    (hwf : i.wf aw = true) (hw : (encode aw i).words = ws) (rest : List Word) (pays : List (List Byte)) :
    decodeStream aw (ws ++ rest) pays = .op i rest pays := by
  subst hw
  cases i <;> cases hp
  case' bswap => rw [decodeStream_encode FirstWord.bswap rfl hwf]
  case' splice o y => rw [decodeStream_encode (FirstWord.splice o y) rfl hwf]
  case' setbit b v i => rw [decodeStream_encode (FirstWord.setbit b v i) rfl hwf]
  case' getbit b i => rw [decodeStream_encode (FirstWord.getbit b i) rfl hwf]
  case' pulse b i => rw [decodeStream_encode (FirstWord.pulse b i) rfl hwf]
  case' setdir b outMask inMask => rw [decodeStream_encode (FirstWord.setdir b outMask inMask) rfl hwf]
  case' rdreg b r => rw [decodeStream_encode (FirstWord.rdreg b r) rfl hwf]
  case' wrreg b r => rw [decodeStream_encode (FirstWord.wrreg b r) rfl hwf]
  case' ldw imm => rw [decodeStream_encode (FirstWord.ldw imm) rfl hwf]
  all_goals simp [encode, Encoding.words, decodeFields, odwPort]

end Sys2Proof
end

section
/-! PROOFS. The laws of splice, and the combinational operations BSWAP, SPLICE and LDW (41_port_primitives.md R83 to R85,
R93). -/

namespace Sys2Proof

open Machine

/-! ## The laws of splice (R93) -/

section SpliceLaws
variable (w : Word) {o : Nat} (y : Byte) (ho : o ≤ 24)
include ho

theorem splice_readBack : (splice w o y >>> (24 - o)) &&& 0xFF#32 = y.setWidth 32 := by
  apply BitVec.eq_of_getLsbD_eq
  intro k hk
  have h255 : (0xFF#32).getLsbD k = decide (k < 8) := by simpa [smask] using smask_getLsbD (o := 24) le_rfl hk
  rw [BitVec.getLsbD_and, h255, BitVec.getLsbD_ushiftRight, BitVec.getLsbD_setWidth]
  by_cases hk8 : k < 8
  · rw [splice_getLsbD w y ho (by omega), if_pos (by omega)]
    simp [hk, hk8]
  · simp [hk8, BitVec.getLsbD_of_ge y k (by omega)]

theorem splice_keepsOutside : splice w o y &&& ~~~(smask o) = w &&& ~~~(smask o) := by
  apply BitVec.eq_of_getLsbD_eq
  intro k hk
  rw [BitVec.getLsbD_and, BitVec.getLsbD_and, BitVec.getLsbD_not, smask_getLsbD ho hk, splice_getLsbD w y ho hk]
  by_cases hin : 24 - o ≤ k ∧ k < 32 - o
  · simp only [decide_eq_true hin, Bool.not_true, Bool.and_false]
  · rw [if_neg hin]

theorem splice_lastWins (y2 : Byte) : splice (splice w o y) o y2 = splice w o y2 := by
  apply BitVec.eq_of_getLsbD_eq
  intro k hk
  simp only [splice_getLsbD _ _ ho hk]
  by_cases hin : 24 - o ≤ k ∧ k < 32 - o
  · simp only [if_pos hin]
  · simp only [if_neg hin]

theorem splice_commutes {o2 : Nat} (y2 : Byte) (ho2 : o2 ≤ 24) (hapart : o + 8 ≤ o2 ∨ o2 + 8 ≤ o) :
    splice (splice w o y) o2 y2 = splice (splice w o2 y2) o y := by
  apply BitVec.eq_of_getLsbD_eq
  intro k hk
  simp only [splice_getLsbD _ _ ho hk, splice_getLsbD _ _ ho2 hk]
  by_cases hin : 24 - o ≤ k ∧ k < 32 - o
  · have hout : ¬ (24 - o2 ≤ k ∧ k < 32 - o2) := by omega
    simp only [if_pos hin, if_neg hout]
  · simp only [if_neg hin]

end SpliceLaws

/-- Settles O6, one law of splice after the other; idempotence is the last write winning over an equal one. -/
theorem spliceLaws : Obligations.SpliceLaws := by
  intro w o o2 y y2 ho ho2
  exact ⟨splice_readBack w y ho, splice_keepsOutside w y ho, splice_lastWins w y ho y, splice_lastWins w y ho y2,
    splice_commutes w y ho y2 ho2⟩

/-! ## BSWAP, SPLICE and LDW -/

/-- The byte swap, byte by byte (20_memory.md R50). -/
theorem bswap32_byte (x : Word) {k : Nat} (hk : k < 4) :
    (bswap32 x).extractLsb' (8 * k) 8 = x.extractLsb' (24 - 8 * k) 8 := by
  apply BitVec.eq_of_getLsbD_eq
  intro j hj
  have hbit : swapBit (8 * k + j) = 24 - 8 * k + j := by unfold swapBit; omega
  simp only [BitVec.getLsbD_extractLsb', bswap32_getLsbD x (show 8 * k + j < 32 by omega), hbit]

/-- Settles O7: byte by byte (`bswap32_byte`), and the swap is an involution. -/
theorem bswapReversesTheWorkingWord : Obligations.BswapReversesTheWorkingWord := by
  intro aw s
  refine ⟨decodeStream_portOperation (i := .bswap) rfl rfl rfl, _, rfl, fun k hk => bswap32_byte s.ww hk, rfl, rfl, ?involution⟩
  intro u hu
  cases hu
  exact bswap32_bswap32 s.ww

/-- Settles O8: the spliced word pin by pin (`splice_pinOf`); an offset above 24 is refused. -/
theorem spliceOverwritesOneField : Obligations.SpliceOverwritesOneField := by
  intro aw s o y
  refine ⟨fun ho => ?inside, fun ho => congrArg Host.Outcome.next (if_pos ho)⟩
  exact ⟨decodeStream_portOperation rfl (by simpa [Instr.wf] using ho) (splice_words aw o y), _,
    congrArg Host.Outcome.next (if_neg (Nat.not_lt.mpr ho)), fun j => splice_pinOf s.ww y j ho, rfl, rfl⟩

/-- Settles O9: its word and its next state are read off the encoder and `exec`. -/
theorem ldwLoadsTheExtensionWord : Obligations.LdwLoadsTheExtensionWord :=
  fun _ _ imm => ⟨decodeStream_portOperation (i := .ldw imm) rfl rfl rfl, rfl⟩

end Sys2Proof
end

section
/-! PROOFS. The port operations that touch a bank: RDREG, WRREG, SETBIT, GETBIT, PULSE and SETDIR (41_port_primitives.md
R86 to R92). -/

namespace Sys2Proof

open Machine

/-! ## Reads -/

theorem rawRead_dat_real {s : State} (b : Bank) (h : s.env.backend = .real) :
    s.rawRead b .dat = (s.banks.out b &&& s.banks.dir b) ||| (s.env.pins &&& ~~~(s.banks.dir b)) := by
  simp only [State.rawRead, readValue, h]

theorem rawRead_dat_simulated {s : State} (b : Bank) (h : s.env.backend = .simulated) :
    s.rawRead b .dat = s.banks.out b := by
  simp only [State.rawRead, readValue, h]

theorem afterRead_dat_real {e : Env} (h : e.backend = .real) : e.afterRead .dat = e.afterDraw := by
  simp only [Env.afterRead, h]

theorem afterRead_dat_simulated {e : Env} (h : e.backend = .simulated) : e.afterRead .dat = e := by
  simp only [Env.afterRead, h]

/-- The response of GETBIT as a word (41_port_primitives.md R89). -/
theorem setWidth_ofBool (x : Bool) : (BitVec.ofBool x).setWidth 32 = if x then 1#32 else 0#32 := by
  cases x <;> rfl

/-! ## Pin levels -/

theorem pinLevel_output {k : Banks} {b : Bank} {bit : Nat} (ext : Word) (h : (k.dir b).getLsbD bit = true) :
    k.pinLevel b bit ext = (k.out b).getLsbD bit := if_pos h

theorem pinLevel_input {k : Banks} {b : Bank} {bit : Nat} (ext : Word) (h : (k.dir b).getLsbD bit = false) :
    k.pinLevel b bit ext = ext.getLsbD bit := if_neg (by simp [h])

/-! ## Writes -/

/-- Of the two registers of its bank a write reaches the one it addresses only (10_state.md R16, R18). -/
theorem Machine.Banks.write_dir (k : Banks) (b : Bank) (r : Reg) (v : Word) :
    (k.write b r v).dir b = if r = .dir then v else k.dir b := by
  cases r <;> simp

theorem Machine.Banks.write_out (k : Banks) (b : Bank) (r : Reg) (v : Word) :
    (k.write b r v).out b = if r = .dat then v else k.out b := by
  cases r <;> simp

/-- A write leaves the other bank alone. -/
theorem Machine.Banks.write_other (k : Banks) {b c : Bank} (r : Reg) (v : Word) (h : b ≠ c) :
    (k.write b r v).dir c = k.dir c ∧ (k.write b r v).out c = k.out c := by
  cases r
  case dir => exact ⟨Banks.write_dir_other k v h, Banks.write_dir_out k b c v⟩
  case dat => exact ⟨Banks.write_dat_dir k b c v, Banks.write_dat_other k v h⟩

theorem bswap32_getLsbD_rbit (x : Word) (j : BitVec 5) : (bswap32 x).getLsbD (rbit j) = pinOf x j := by
  rw [← pinOf_bswap32, bswap32_bswap32]

/-- The direction register between the two writes of `setDirection`, pin by pin (41_port_primitives.md R91). -/
theorem released_bit (dir inMask : Word) (j : BitVec 5) :
    (dir &&& ~~~(bswap32 inMask)).getLsbD (rbit j) = (dir.getLsbD (rbit j) && !pinOf inMask j) := by
  rw [BitVec.getLsbD_and, BitVec.getLsbD_not, bswap32_getLsbD_rbit, decide_eq_true (rbit_lt j), Bool.true_and]

/-- `setDirection` draws nothing: it writes the banks and the trace only. -/
theorem setDirection_frame (b : Bank) (outMask inMask : Word) (s : State) :
    s.setDirection b outMask inMask = { s with
      banks := (s.setDirection b outMask inMask).banks, trace := (s.setDirection b outMask inMask).trace } := by
  simp only [State.setDirection, State.memWrite, State.afterRead, Env.afterRead_dir]

/-! ## RDREG and WRREG -/

/-- Settles O10: the value and the draw of a read on each port (`rawRead_dat_real`, `rawRead_dat_simulated`). -/
theorem rdregReadsTheRegister : Obligations.RdregReadsTheRegister := by
  intro s b r
  refine ⟨fun aw => decodeStream_portOperation rfl rfl (rdreg_words aw b r),
    fun h => congrArg Host.Outcome.next (withProfile_false _ h), fun h => ?completes⟩
  refine ⟨_, congrArg Host.Outcome.next (withProfile_true _ h), rfl, ?trace, ?dir, ?real, ?simulated, rfl⟩
  case trace => cases b <;> cases r <;> rfl
  case dir => rintro rfl; exact ⟨rawRead_dir s b, Env.afterRead_dir s.env⟩
  case real => rintro rfl hb; exact ⟨rawRead_dat_real b hb, afterRead_dat_real hb⟩
  case simulated => rintro rfl hb; exact ⟨rawRead_dat_simulated b hb, afterRead_dat_simulated hb⟩

/-- Settles O11: the write reaches one register (`Banks.write_dir`, `Banks.write_out`, `Banks.write_other`). -/
theorem wrregWritesTheRegister : Obligations.WrregWritesTheRegister := by
  intro s b r
  refine ⟨fun aw => decodeStream_portOperation rfl rfl (wrreg_words aw b r),
    fun h => congrArg Host.Outcome.next (withProfile_false _ h), fun h => ?completes⟩
  exact ⟨_, congrArg Host.Outcome.next (withProfile_true _ h), rfl, rfl, s.banks.write_dir b r s.ww,
    s.banks.write_out b r s.ww, fun c hc => s.banks.write_other r s.ww hc.symm, fun _ ext hd => pinLevel_output ext hd,
    fun _ ext hd => pinLevel_input ext hd, rfl⟩

/-! ## SETBIT, GETBIT and PULSE -/

/-- Settles O12: `setBit` in raw terms (`setBit_banks`, `setBit_trace`), and what an output pin keeps (`setBit_output`). -/
theorem setbitSetsOnePin : Obligations.SetbitSetsOnePin := by
  intro s b v i
  refine ⟨fun aw => decodeStream_portOperation rfl rfl (setbit_words aw b v i),
    fun h => congrArg Host.Outcome.next (withProfile_false _ h), fun h => ?completes⟩
  refine ⟨(s.setBit b i v).respond 0#32, congrArg Host.Outcome.next (withProfile_true _ h), rfl, setBit_trace b i v s,
    ?latch, fun c => setBit_dir b c i v s, fun c hc => setBit_out_other i v s hc.symm, ?kept, rfl, rfl⟩
  case latch =>
    rw [State.respond_banks, setBit_banks, Banks.write_dat_same]
    rfl
  case kept =>
    intro j hj hout
    exact (setBit_output b i v s j hout).trans (if_neg hj)

/-- Settles O13: the bit returned is the raw bit of the pin (`getBit_raw`). -/
theorem getbitReadsOnePin : Obligations.GetbitReadsOnePin := by
  intro s b i
  refine ⟨fun aw => decodeStream_portOperation rfl rfl (getbit_words aw b i),
    fun h => congrArg Host.Outcome.next (withProfile_false _ h), fun h => ?completes⟩
  refine (congrArg Host.Outcome.next (withProfile_true _ h)).trans ?_
  rw [getBit_raw, setWidth_ofBool]
  rfl

/-- Settles O14: the two writes of `pulse` in raw terms (`pulse_trace`), the second of which stands in the latch. -/
theorem pulseLowersThenRaisesThePin : Obligations.PulseLowersThenRaisesThePin := by
  intro s b i
  refine ⟨fun aw => decodeStream_portOperation rfl rfl (pulse_words aw b i),
    fun h => congrArg Host.Outcome.next (withProfile_false _ h), fun h => ?completes⟩
  refine ⟨(s.pulse b i).respond 0#32, congrArg Host.Outcome.next (withProfile_true _ h), rfl, pulse_trace b i s,
    ?latch, (pulse_out_bit b i s (rbit i)).trans (if_pos rfl), fun c => pulse_dir b c i s,
    fun c hc => pulse_out_other i s hc.symm, rfl, rfl⟩
  case latch =>
    rw [State.respond_banks, pulse_banks, Banks.write_dat_same]
    rfl

/-! ## SETDIR -/

/-- Settles O15: the two writes of `setDirection` (`setDirection_trace`), pin by pin (`released_bit`,
`setDirection_dir_bit`). -/
theorem setdirReleasesThenAsserts : Obligations.SetdirReleasesThenAsserts := by
  intro s b outMask inMask
  refine ⟨fun aw => decodeStream_portOperation rfl rfl (setdir_words aw b outMask inMask),
    fun h => congrArg Host.Outcome.next (withProfile_false _ h), fun h => ?completes⟩
  refine ⟨(s.setDirection b outMask inMask).respond 0#32, s.banks.dir b &&& ~~~(bswap32 inMask),
    congrArg Host.Outcome.next (withProfile_true _ h), rfl, ?trace,
    fun j => ⟨released_bit _ inMask j, ?asserted⟩, fun c => setDirection_out b c outMask inMask s, ?otherBank,
    (congrArg (State.respond 0#32) (setDirection_frame b outMask inMask s) :)⟩
  case trace =>
    rw [State.respond_trace, setDirection_trace, State.respond_banks, setDirection_banks, Banks.write_dir_same]
  case asserted =>
    refine (setDirection_dir_bit b outMask inMask s j).trans ?_
    unfold pinOf
    cases outMask.getLsbD (31 - j.toNat) <;> cases inMask.getLsbD (31 - j.toNat) <;> simp
  case otherBank =>
    intro c hc
    rw [State.respond_banks, setDirection_banks, Banks.write_dir_other _ _ hc.symm]

/-! ## The round trip of SETBIT and GETBIT -/

/-- In the simulated backend and on an output pin, what `setBit` has written is read back (41_port_primitives.md R92). -/
theorem getBit_setBit (b : Bank) (i : BitVec 5) (v : Bool) (s : State)
    (h : s.env.backend = .simulated ∨ (s.banks.dir b).getLsbD (rbit i) = true) : (s.setBit b i v).getBit b i = v := by
  have hset : ((s.setBit b i v).banks.out b).getLsbD (rbit i) = v := by
    rw [setBit_out_bit b i v s (rbit_lt i), if_pos rfl]
  rw [getBit_raw]
  rcases h with hsim | hout
  · rw [rawRead_dat_simulated b (by simpa using hsim), hset]
  · rw [rawRead_dat_bit _ b (by simpa using hout), hset]

/-- On the real port an input pin gives the level drawn at the read, whatever `setBit` has written. -/
theorem getBit_setBit_input (b : Bank) (i : BitVec 5) (v : Bool) (s : State) (hreal : s.env.backend = .real)
    (hin : (s.banks.dir b).getLsbD (rbit i) = false) :
    (s.setBit b i v).getBit b i = (s.setBit b i v).env.pins.getLsbD (rbit i) := by
  rw [getBit_raw]
  exact rawRead_dat_input _ b (rbit_lt i) (by simpa using hreal) (by simpa using hin)

/-- Settles O16: the two operations complete, and `RV` is the bit read back (`getBit_setBit`, `getBit_setBit_input`). -/
theorem setbitGetbitRoundTrip : Obligations.SetbitGetbitRoundTrip := by
  intro s b v i h
  exact ⟨(s.setBit b i v).respond 0#32, _, congrArg Host.Outcome.next (withProfile_true _ h),
    congrArg Host.Outcome.next (withProfile_true _ h), getBit_setBit b i v s, getBit_setBit_input b i v s⟩

end Sys2Proof
end

section
/-! PROOFS. The steps that drive the pins of an attempt: SETUP, RESET and the framing (42_sequencer.md R97 to R100, R102). -/

namespace Sys2Proof

open Machine

/-! ## SETUP -/

/-- The six transactions of SETUP (42_sequencer.md R97): each direction register read once and written twice, its final
value last; the data bus releases no input. -/
theorem setup_trace (s : State) {t : State} (ht : exec .stepSetup s = .next t) :
    t.trace = s.trace ++ [.read (s.addr .ctrl .dir) s.banks.dirCtrl,
      .write (s.addr .ctrl .dir) (s.banks.dirCtrl &&& ~~~(bswap32 s.profile.ctrlIn)),
      .write (s.addr .ctrl .dir) t.banks.dirCtrl, .read (s.addr .data .dir) s.banks.dirData,
      .write (s.addr .data .dir) s.banks.dirData, .write (s.addr .data .dir) t.banks.dirData] := by
  have hkeep (d : Word) : d &&& ~~~(bswap32 0#32) = d := BitVec.and_allOnes
  cases ht
  simp only [setDirection_trace, setDirection_banks, State.setDirection_addr, List.append_assoc, hkeep]
  simp [Banks.write, Banks.dir]

/-- Settles O19: the six transactions (`setup_trace`), and the directions pin by pin from the masks of SETUP. -/
theorem setupConfiguresTheDirections : Obligations.SetupConfiguresTheDirections := by
  refine ⟨rfl, fun s hwf => ?_⟩
  obtain ⟨k, es, ht, -, hctrl, hdata, houtCtrl, houtData⟩ := stepSetup_spec s
  refine ⟨_, _, _, ht, fun j => ?released, fun j => ?ctrl, rfl, fun j => ?data, setup_trace s ht, houtCtrl, houtData,
    rfl, rfl, rfl⟩
  case released =>
    rw [released_bit, pinOf_ctrlIn]
    split <;> simp [*]
  case ctrl =>
    rw [hctrl, pinOf_ctrlOut, pinOf_ctrlIn]
    split_ifs <;> simp [*]
  case data =>
    rw [hdata, pinOf_dataOut hwf, onBus, ← Bool.decide_and]
    split <;> simp [*]

/-! ## The control latch -/

/-- A read of the control bank after a `setBit` gives the word just written on every output bit (10_state.md R17). -/
theorem readsBack_setBit (i : BitVec 5) (v : Bool) (s : State) :
    ReadsBack s.banks.dirCtrl (if v then s.rawRead .ctrl .dat ||| rmask i else s.rawRead .ctrl .dat &&& ~~~(rmask i))
      ((s.setBit .ctrl i v).rawRead .ctrl .dat) := by
  have h := rawRead_dat_outputs (s.setBit .ctrl i v) .ctrl
  rwa [setBit_dir, setBit_banks, Banks.write_dat_same] at h

/-! ## RESET -/

/-- What the exits of RESET do, whatever state `u` the action has left (42_sequencer.md R99, R100). -/
theorem resetExit_cases (u : State) {t : State} (ht : t = if u.ro then u.resetOnlyExit else u.enterWaitInit) :
    (u.ro = true → t.st = stDone ∧ t.reason = .none ∧ t.ph = u.ph ∧ t.poll = u.poll) ∧
    (u.ro = false → u.iwb = 0#32 → t.st = stFailed ∧ t.reason = .initTimeout ∧ t.ph = false ∧ t.poll = 0#32) ∧
    (u.ro = false → u.iwb ≠ 0#32 → t.st = stWaitInit ∧ t.reason = u.reason ∧ t.ph = u.ph ∧ t.poll = 0#32) ∧
    ∃ st reason ph poll, t = { u with st := st, reason := reason, ph := ph, poll := poll } := by
  subst ht
  split
  · next hro =>
    have hne : u.ro ≠ false := by simp [hro]
    exact ⟨fun _ => ⟨rfl, rfl, rfl, rfl⟩, fun h => absurd h hne, fun h => absurd h hne, _, _, _, _, rfl⟩
  · next hro =>
    refine ⟨fun h => absurd h hro, ?_⟩
    unfold State.enterWaitInit
    split
    · next hiwb => exact ⟨fun _ _ => ⟨rfl, rfl, rfl, rfl⟩, fun _ => absurd hiwb, _, _, _, _, rfl⟩
    · next hiwb => exact ⟨fun _ h => absurd h hiwb, fun _ _ => ⟨rfl, rfl, rfl, rfl⟩, _, _, _, _, rfl⟩

/-- Settles O20: the four `setBit`s and the pulse, each reading back what the one before has written
(`readsBack_setBit`); then the exits (`resetExit_cases`). -/
theorem resetDrivesThePatternAndPulses : Obligations.ResetDrivesThePatternAndPulses := by
  refine ⟨rfl, fun s => ?_⟩
  let s1 := s.setBit .ctrl s.profile.pinCsi true
  let s2 := s1.setBit .ctrl s.profile.pinRdwr true
  let s3 := s2.setBit .ctrl s.profile.pinProgram true
  let s4 := s3.setBit .ctrl s.profile.pinClock true
  obtain ⟨t, ht⟩ : ∃ t, t = if s.resetAction.ro then s.resetAction.resetOnlyExit else s.resetAction.enterWaitInit :=
    ⟨_, rfl⟩
  obtain ⟨resetOnly, zeroBound, waitInit, st, reason, ph, poll, rfl⟩ := resetExit_cases s.resetAction ht
  refine ⟨_, s.rawRead .ctrl .dat, s1.rawRead .ctrl .dat, s2.rawRead .ctrl .dat, s3.rawRead .ctrl .dat,
    s4.rawRead .ctrl .dat, congrArg Host.Outcome.next ht.symm, rawRead_dat_outputs s .ctrl, readsBack_setBit _ true s,
    readsBack_setBit _ true s1, readsBack_setBit _ true s2, readsBack_setBit _ true s3, ?trace, ?banks, resetOnly,
    zeroBound, waitInit, rfl⟩
  case trace => simp [s4, s3, s2, s1, State.resetAction, pulse_trace, setBit_trace]
  case banks =>
    simp only [State.resetAction, pulse_banks, setBit_banks, Banks.write_write]
    rfl

/-! ## The framing -/

/-- What the framing does last, whatever state `u` its six writes have left (42_sequencer.md R102). -/
theorem framingExit_cases (u : State) {t : State}
    (ht : t = if u.n = 0#32 then { u with ph := false, st := stWaitDone } else { u with ph := true }) :
    (u.n = 0#32 → t.ph = false ∧ t.st = stWaitDone) ∧ (u.n ≠ 0#32 → t.ph = true ∧ t.st = u.st) ∧
    ∃ ph st, t = { u with ph := ph, st := st } := by
  subst ht
  split
  · next hn => exact ⟨fun _ => ⟨rfl, rfl⟩, absurd hn, _, _, rfl⟩
  · next hn => exact ⟨fun h => absurd h hn, fun _ => ⟨rfl, rfl⟩, _, _, rfl⟩

/-- Settles O22: six `setBit`s, each reading back what the one before has written (`readsBack_setBit`). -/
theorem framingLowersRdwrThenCsi : Obligations.FramingLowersRdwrThenCsi := by
  refine ⟨rfl, fun s => ?_⟩
  let s1 := s.setBit .ctrl s.profile.pinClock false
  let s2 := s1.setBit .ctrl s.profile.pinRdwr false
  let s3 := s2.setBit .ctrl s.profile.pinClock true
  let s4 := s3.setBit .ctrl s.profile.pinClock false
  let s5 := s4.setBit .ctrl s.profile.pinCsi false
  let s6 := s5.setBit .ctrl s.profile.pinClock true
  obtain ⟨t, ht⟩ : ∃ t, t = if s6.n = 0#32 then { s6 with ph := false, st := stWaitDone } else { s6 with ph := true } :=
    ⟨_, rfl⟩
  obtain ⟨empty, chunks, ph, st, rfl⟩ := framingExit_cases s6 ht
  refine ⟨_, s.rawRead .ctrl .dat, s1.rawRead .ctrl .dat, s2.rawRead .ctrl .dat, s3.rawRead .ctrl .dat,
    s4.rawRead .ctrl .dat, s5.rawRead .ctrl .dat, congrArg Host.Outcome.next ht.symm, rawRead_dat_outputs s .ctrl,
    readsBack_setBit _ false s, readsBack_setBit _ false s1, readsBack_setBit _ true s2, readsBack_setBit _ false s3,
    readsBack_setBit _ false s4, ?trace, ?banks, empty, chunks, rfl⟩
  case trace => simp [s6, s5, s4, s3, s2, s1, setBit_trace]
  case banks =>
    simp only [s6, setBit_banks]
    rfl

end Sys2Proof
end

section
/-! PROOFS. The steps that read one pin: the polls of INIT and DONE and the re-check (42_sequencer.md R101, R105, R107). -/

namespace Sys2Proof

open Machine

/-- Settles O21: the pin read is its raw bit (`getBit_raw`), and a count below the bound does not wrap
(`toNat_add_one`). -/
theorem waitInitPollsOnce : Obligations.WaitInitPollsOnce := by
  refine ⟨rfl, fun s => ?_⟩
  simp only [← getBit_raw]
  refine ⟨fun hx => congrArg Host.Outcome.next (if_pos hx), fun hx hpoll => ?timeout, fun hx hpoll => ?again,
    fun hlt => (toNat_add_one hlt).trans_le hlt⟩
  case timeout => exact congrArg Host.Outcome.next ((if_neg (by simp [hx])).trans (if_pos hpoll))
  case again => exact congrArg Host.Outcome.next ((if_neg (by simp [hx])).trans (if_neg hpoll))

/-- Settles O24: the pin read is its raw bit (`getBit_raw`), and each outcome is a branch of the step. -/
theorem checkInitOnceAfterTheShift : Obligations.CheckInitOnceAfterTheShift := by
  refine ⟨rfl, fun s => ?_⟩
  simp only [← getBit_raw]
  refine ⟨fun hx => congrArg Host.Outcome.next (if_pos hx), fun hx hdwb => ?zeroBound, fun hx hdwb => ?polls⟩
  case zeroBound => exact congrArg Host.Outcome.next ((if_neg (by simp [hx])).trans (if_pos hdwb))
  case polls => exact congrArg Host.Outcome.next ((if_neg (by simp [hx])).trans (if_neg hdwb))

/-- Settles O25: the pin read is its raw bit (`getBit_raw`), and each outcome is a branch of the step. -/
theorem pollDoneOnce : Obligations.PollDoneOnce := by
  refine ⟨rfl, fun s => ?_⟩
  simp only [← getBit_raw]
  refine ⟨fun hx => congrArg Host.Outcome.next (if_pos hx), fun hx hpoll => ?timeout, fun hx hpoll => ?again⟩
  case timeout => exact congrArg Host.Outcome.next ((if_neg (by simp [hx])).trans (if_pos hpoll))
  case again => exact congrArg Host.Outcome.next ((if_neg (by simp [hx])).trans (if_neg hpoll))

end Sys2Proof
end

section
/-! PROOFS. The transition table (42_sequencer.md R95): what a step of the sequencer does from each busy state. -/

namespace Sys2Proof

open Machine

/-! ## Every step of the sequencer completes (R94) -/

theorem decodeSelector_step {sel : BitVec 5} {i : Instr} (h : decodeSelector sel = some i) :
    hostOperation i = false := by
  have hall : ∀ sel, (decodeSelector sel).all (fun i => !hostOperation i) = true := by decide
  simpa [h] using hall sel

theorem execStep_completes {i : Instr} (h : hostOperation i = false) (s : State) : ∃ t, exec i s = .next t := by
  cases i
  case stepIdle | stepSetup | stepReset | stepWaitInit | stepShiftFrame | stepShiftChunk | stepCheckInit | stepPollDone
      | stepCompleting | stepDone | stepFailed => exact ⟨_, rfl⟩
  all_goals cases h

theorem seqStep_completes (s : State) : ∃ t, seqStep s = .next t := by
  unfold seqStep
  split
  · next hi => exact execStep_completes (decodeSelector_step hi) s
  · exact ⟨s, rfl⟩

/-- A state whose phase 1 has a reserved selector is in phase 0 (30_encoding.md R76). -/
theorem phase_zero {s : State} {a : BitVec 4} (hsel : (decodeSelector s.selector).isSome = true) (hst : s.st = a)
    (hreserved : decodeSelector (BitVec.ofBool true ++ a) = none) : s.ph = false := by
  cases hph : s.ph
  case false => rfl
  case true =>
    rw [selector_of hst hph, hreserved] at hsel
    cases hsel

/-! ## The rows -/

theorem word_ne_zero {x : Word} (h : 0 < x.toNat) : x ≠ 0#32 := by
  rintro rfl
  simp at h

section Rows
variable {s t : State} (hi : s.Inv)
include hi

/-- A chunk that is due lies inside the payload: with two bytes a chunk, `IDX` and `N` are even (42_sequencer.md R104). -/
theorem chunk_inside (hst : s.st = stShifting) (hph : s.ph = true) : (s.idx + s.busWidth).toNat ≤ s.n.toNat := by
  obtain ⟨hdue, heven⟩ := hi.chunkDue hst hph
  have hro := hi.full (.inr (by simp [State.afterFraming, hst, hph]))
  have hpay := hi.twoBytes (by rw [State.busy, hst]; rfl) hro
  have hn := hi.length
  have hlt := s.n.isLt
  rw [BitVec.toNat_add, busWidth_toNat]
  cases hw : s.w
  case false => simp; omega
  case true =>
    have := heven hw
    have := (hpay hw).2
    simp; omega

/-- A startup pulse that is due does not pass the last one (42_sequencer.md R108). -/
theorem pulse_counts (hst : s.st = stCompleting) (hne : s.scnt + 1#4 ≠ 8#4) : (s.scnt + 1#4).toNat < 8 := by
  have hdue : s.scnt.toNat < 8 := hi.startupDue hst
  bv_omega

section Row
variable (ht : seqStep s = .next t)
include ht

theorem setup_row : s.st = stSetup → t.st = stReset := by
  intro hst
  obtain ⟨k, es, hexec, -⟩ := stepSetup_spec s
  rw [seqStep_of hst (phase_zero hi.selector hst rfl) rfl, hexec] at ht
  cases ht
  rfl

theorem reset_rows :
    (s.st = stReset → s.ro = true → t.st = stDone) ∧
    (s.st = stReset → s.ro = false → s.iwb = 0#32 → t.st = stFailed ∧ t.reason = .initTimeout) ∧
    (s.st = stReset → s.ro = false → 0 < s.iwb.toNat → t.st = stWaitInit) := by
  rw [← imp_and, ← imp_and]
  intro hst
  obtain ⟨v, es, e, hexec, -⟩ := stepReset_spec s
  rw [seqStep_of hst (phase_zero hi.selector hst rfl) rfl, hexec] at ht
  cases ht
  refine ⟨fun hro => ?_, fun hro hiwb => ?_, fun hro hiwb => ?_⟩
  · rw [if_pos hro]
  · rw [if_neg (by simp [hro]), if_pos hiwb]
    exact ⟨rfl, rfl⟩
  · rw [if_neg (by simp [hro]), if_neg (word_ne_zero hiwb)]

theorem waitInit_rows {x : Bool} (hx : s.getBit .ctrl s.profile.pinInit = x) :
    (s.st = stWaitInit → x = true → t.st = stShifting ∧ t.ph = false) ∧
    (s.st = stWaitInit → x = false → t.poll = s.iwb → t.st = stFailed ∧ t.reason = .initTimeout) ∧
    (s.st = stWaitInit → x = false → t.poll ≠ s.iwb → t.poll.toNat < s.iwb.toNat ∧ t.st = stWaitInit) := by
  rw [← imp_and, ← imp_and]
  intro hst
  obtain ⟨es, e, hexec, -⟩ := stepWaitInit_spec s
  rw [seqStep_of hst (phase_zero hi.selector hst rfl) rfl, hexec, hx] at ht
  cases ht
  cases x
  case true => exact ⟨fun _ => ⟨rfl, rfl⟩, nofun, nofun⟩
  case false =>
    refine ⟨nofun, ?_⟩
    rw [if_neg Bool.false_ne_true]
    split
    · next hpoll => exact ⟨fun _ _ => ⟨rfl, rfl⟩, fun _ h => absurd hpoll h⟩
    · next hpoll => exact ⟨fun _ h => absurd h hpoll, fun _ h => ⟨poll_lt (hi.initPolls hst) h, hst⟩⟩

omit hi in
theorem framing_rows :
    (s.st = stShifting → s.ph = false → s.n = 0#32 → t.st = stWaitDone ∧ t.ph = false) ∧
    (s.st = stShifting → s.ph = false → 0 < s.n.toNat → t.st = stShifting ∧ t.ph = true) := by
  rw [← imp_and]
  intro hst
  rw [← imp_and]
  intro hph
  obtain ⟨v, es, e, hexec, -⟩ := stepShiftFrame_spec s
  rw [seqStep_of hst hph rfl, hexec] at ht
  cases ht
  refine ⟨fun hn => ?_, fun hn => ?_⟩
  · rw [if_pos hn]
    exact ⟨rfl, rfl⟩
  · rw [if_neg (word_ne_zero hn)]
    exact ⟨hst, rfl⟩

theorem chunk_rows :
    (s.st = stShifting → s.ph = true → t.idx = s.n → t.st = stWaitDone ∧ t.ph = false) ∧
    (s.st = stShifting → s.ph = true → t.idx ≠ s.n → t.idx.toNat < s.n.toNat ∧ t.st = stShifting ∧ t.ph = true) := by
  rw [← imp_and]
  intro hst
  rw [← imp_and]
  intro hph
  obtain ⟨v, es, e, hexec, -⟩ := stepShiftChunk_spec s
  rw [seqStep_of hst hph rfl, hexec] at ht
  cases ht
  split
  · next hlast => exact ⟨fun _ => ⟨rfl, rfl⟩, absurd hlast⟩
  · next hmore =>
    have hinside := chunk_inside hi hst hph
    exact ⟨fun h => absurd h hmore, fun _ => ⟨lt_of_le_of_ne hinside (mt BitVec.eq_of_toNat_eq hmore), hst, hph⟩⟩

omit hi in
theorem checkInit_rows {x : Bool} (hx : s.getBit .ctrl s.profile.pinInit = x) :
    (s.st = stWaitDone → s.ph = false → x = false → t.st = stFailed ∧ t.reason = .programmingRejected) ∧
    (s.st = stWaitDone → s.ph = false → x = true → s.dwb = 0#32 → t.st = stFailed ∧ t.reason = .doneTimeout) ∧
    (s.st = stWaitDone → s.ph = false → x = true → 0 < s.dwb.toNat → t.st = stWaitDone ∧ t.ph = true) := by
  rw [← imp_and, ← imp_and]
  intro hst
  rw [← imp_and, ← imp_and]
  intro hph
  obtain ⟨es, e, hexec, -⟩ := stepCheckInit_spec s
  rw [seqStep_of hst hph rfl, hexec, hx] at ht
  cases ht
  cases x
  case false => exact ⟨fun _ => ⟨rfl, rfl⟩, nofun, nofun⟩
  case true =>
    refine ⟨nofun, fun _ hdwb => ?_, fun _ hdwb => ?_⟩
    · rw [if_neg Bool.false_ne_true.symm, if_pos hdwb]
      exact ⟨rfl, rfl⟩
    · rw [if_neg Bool.false_ne_true.symm, if_neg (word_ne_zero hdwb)]
      exact ⟨hst, rfl⟩

theorem pollDone_rows {x : Bool} (hx : s.getBit .ctrl s.profile.pinDone = x) :
    (s.st = stWaitDone → s.ph = true → x = true → t.st = stCompleting) ∧
    (s.st = stWaitDone → s.ph = true → x = false → t.poll = s.dwb → t.st = stFailed ∧ t.reason = .doneTimeout) ∧
    (s.st = stWaitDone → s.ph = true → x = false → t.poll ≠ s.dwb →
      t.poll.toNat < s.dwb.toNat ∧ t.st = stWaitDone ∧ t.ph = true) := by
  rw [← imp_and, ← imp_and]
  intro hst
  rw [← imp_and, ← imp_and]
  intro hph
  obtain ⟨es, e, hexec, -⟩ := stepPollDone_spec s
  rw [seqStep_of hst hph rfl, hexec, hx] at ht
  cases ht
  cases x
  case true => exact ⟨fun _ => rfl, nofun, nofun⟩
  case false =>
    refine ⟨nofun, ?_⟩
    rw [if_neg Bool.false_ne_true]
    split
    · next hpoll => exact ⟨fun _ _ => ⟨rfl, rfl⟩, fun _ h => absurd hpoll h⟩
    · next hpoll => exact ⟨fun _ h => absurd h hpoll, fun _ h => ⟨poll_lt (hi.donePolls hst hph) h, hst, hph⟩⟩

theorem completing_rows :
    (s.st = stCompleting → t.scnt = 8#4 → t.st = stDone) ∧
    (s.st = stCompleting → t.scnt ≠ 8#4 → t.scnt.toNat < 8 ∧ t.st = stCompleting) := by
  rw [← imp_and]
  intro hst
  obtain ⟨v, es, e, hexec, -⟩ := stepCompleting_spec s
  rw [seqStep_of hst (phase_zero hi.selector hst rfl) rfl, hexec] at ht
  cases ht
  split
  · next hlast => exact ⟨fun _ => rfl, absurd hlast⟩
  · next hmore => exact ⟨fun h => absurd h hmore, fun h => ⟨pulse_counts hi hst h, hst⟩⟩

end Row
end Rows

/-! ## The start of an attempt -/

/-- CMD.PROGRAM is refused, or begins a full attempt on the session it names (43_host_commands.md R120, R121). -/
theorem cmdProgram_next {v : Bool} {pay : List Byte} {s t : State} (h : exec (.cmdProgram v pay) s = .next t) :
    (∃ why, t = s.refuse why) ∨
    t = (({ s with w := v, pay := pay, n := BitVec.ofNat 32 pay.length }.beginAttempt false).respond 0#32) := by
  simp only [exec, execCmdProgram, State.withProfile] at h
  split at h
  · cases h
  · cases h
    split
    · split
      · exact .inl ⟨_, rfl⟩
      · split
        · exact .inl ⟨_, rfl⟩
        · exact .inr rfl
    · exact .inl ⟨_, rfl⟩

/-- CMD.RESET_ONLY is refused, or begins a reset-only attempt (43_host_commands.md R122). -/
theorem cmdResetOnly_next {s t : State} (h : exec .cmdResetOnly s = .next t) :
    t = s.refuse .noProfile ∨ t = (s.beginAttempt true).respond 0#32 := by
  cases h
  cases hc : s.cfgv
  case false => exact .inl (withProfile_false _ hc)
  case true => exact .inr (withProfile_true _ hc)

/-- Settles O28: a step completes, each state's rows hold of it, and a start that is answered was not refused. -/
theorem transitionTable : Obligations.TransitionTable := by
  refine ⟨fun s hi _ => ?rows, fun s t v pay h hresp => ?program, fun s t h hresp => ?resetOnly⟩
  case rows =>
    obtain ⟨t, ht⟩ := seqStep_completes s
    obtain ⟨resetDone, resetZeroBound, resetWaits⟩ := reset_rows hi ht
    obtain ⟨initReady, initTimeout, initWaits⟩ := waitInit_rows hi ht (getBit_raw s .ctrl s.profile.pinInit)
    obtain ⟨nothingToShift, chunksBegin⟩ := framing_rows ht
    obtain ⟨lastChunk, moreChunks⟩ := chunk_rows hi ht
    obtain ⟨rejected, zeroBound, pollsBegin⟩ := checkInit_rows ht (getBit_raw s .ctrl s.profile.pinInit)
    obtain ⟨doneHigh, doneTimeout, doneWaits⟩ := pollDone_rows hi ht (getBit_raw s .ctrl s.profile.pinDone)
    obtain ⟨lastPulse, morePulses⟩ := completing_rows hi ht
    exact ⟨t, ht, setup_row hi ht, resetDone, resetZeroBound, resetWaits, initReady, initTimeout, initWaits,
      nothingToShift, chunksBegin, lastChunk, moreChunks, rejected, zeroBound, pollsBegin, doneHigh, doneTimeout,
      doneWaits, lastPulse, morePulses⟩
  case program =>
    rcases cmdProgram_next h with ⟨why, rfl⟩ | rfl
    · exact absurd rfl hresp
    · exact ⟨rfl, rfl⟩
  case resetOnly =>
    rcases cmdResetOnly_next h with rfl | rfl
    · exact absurd rfl hresp
    · exact ⟨rfl, rfl⟩

end Sys2Proof
end

section
/-! PROOFS. DONE and FAILED are left by the start of an attempt alone (42_sequencer.md R111): what each agent's move keeps of
the sequencer's outcome. -/

namespace Sys2Proof

open Machine

/-! ## Moves that are no operation -/

/-- One more attempt of a run changes the HOST agents, the session lock of the runs and the environment alone. -/
theorem runAttempt_frame (k : Nat) (h : HostAgent) (r : HostRun) (s : State) :
    ∃ env hosts lock, s.runAttempt k h r = { s with env := env, hosts := hosts, runLock := lock } := by
  unfold State.runAttempt
  split
  · exact ⟨_, _, _, rfl⟩
  · dsimp only
    split <;> exact ⟨_, _, _, rfl⟩

/-- What a run does with a status word changes the same alone. -/
theorem runStatus_frame (k : Nat) (v : Word) (h : HostAgent) (r : HostRun) (s : State) :
    ∃ env hosts lock, s.runStatus k v h r = { s with env := env, hosts := hosts, runLock := lock } := by
  unfold State.runStatus
  split
  · exact ⟨_, _, _, rfl⟩
  · split
    · exact ⟨_, _, _, rfl⟩
    · split <;> exact ⟨_, _, _, rfl⟩

/-- A step of a HOST's run changes nothing of the block (60_exceptions.md section 6). -/
theorem runHost_frame (k : Nat) (s : State) :
    ∃ env hosts lock, s.runHost k = { s with env := env, hosts := hosts, runLock := lock } := by
  unfold State.runHost
  split
  · exact ⟨_, _, _, rfl⟩
  · split
    · exact ⟨_, _, _, rfl⟩
    · next h _ _ r _ =>
      cases r.phase
      case nextAttempt => exact runAttempt_frame k h r s
      case waitLock | awaitConfig =>
        dsimp only
        split
        · exact ⟨_, _, _, rfl⟩
        · split <;> exact ⟨_, _, _, rfl⟩
      case awaitStart =>
        dsimp only
        split <;> exact ⟨_, _, _, rfl⟩
      case awaitStatus =>
        dsimp only
        split
        · exact ⟨_, _, _, rfl⟩
        · exact runStatus_frame ..
      case succeeded | failed => exact ⟨_, _, _, rfl⟩

/-- An injection changes the banks alone (20_memory.md R60). -/
theorem inject_frame (init done : Option Bool) (s : State) :
    ∃ banks, s.inject init done = { s with banks := banks } := by
  unfold State.inject
  split <;> exact ⟨_, rfl⟩

/-! ## Operations of HOST -/

/-- The outcome of the last attempt is kept, or a new attempt begins: SETUP in phase 0, no `REASON`, the counters at 0
(42_sequencer.md R111, 60_exceptions.md R136). -/
def Machine.State.KeepsOutcomeOrStarts (s t : State) : Prop :=
  (t.st = s.st ∧ t.reason = s.reason) ∨
  (t.st = stSetup ∧ t.ph = false ∧ t.reason = .none ∧ t.poll = 0#32 ∧ t.idx = 0#32 ∧ t.scnt = 0#4)

/-- An operation with a profile condition keeps the outcome if what it does under a profile does. -/
theorem withProfile_keepsOutcome {s u : State} (hst : u.st = s.st) (hreason : u.reason = s.reason) :
    s.KeepsOutcomeOrStarts (s.withProfile u) := by
  unfold State.withProfile
  split
  · exact .inl ⟨hst, hreason⟩
  · exact .inl ⟨rfl, rfl⟩

/-- Of the operations of HOST only an accepted CMD.PROGRAM or CMD.RESET_ONLY touches the outcome, by starting an attempt. -/
theorem exec_keepsOutcomeOrStarts {i : Instr} {s t : State} (hop : hostOperation i = true) (h : exec i s = .next t) :
    s.KeepsOutcomeOrStarts t := by
  cases i
  case cmdProgram v pay =>
    rcases cmdProgram_next h with ⟨why, rfl⟩ | rfl
    · exact .inl ⟨rfl, rfl⟩
    · exact .inr ⟨rfl, rfl, rfl, rfl, rfl, rfl⟩
  case cmdResetOnly =>
    rcases cmdResetOnly_next h with rfl | rfl
    · exact .inl ⟨rfl, rfl⟩
    · exact .inr ⟨rfl, rfl, rfl, rfl, rfl, rfl⟩
  case setbit | getbit | pulse | setdir | rdreg | wrreg =>
    cases h
    exact withProfile_keepsOutcome rfl rfl
  case bswap | ldw | cmdStatus =>
    cases h
    exact .inl ⟨rfl, rfl⟩
  case splice | cmdConfig =>
    cases h
    split <;> exact .inl ⟨rfl, rfl⟩
  all_goals cases hop

section Moves
variable {k : Nat} {s t : State}

theorem perform_keepsOutcomeOrStarts {i : Instr} (hop : hostOperation i = true) (h : perform k i s = .next t) :
    s.KeepsOutcomeOrStarts t := by
  obtain ⟨u, hu, rfl⟩ := perform_next h
  rw [deliver_eq]
  exact (exec_keepsOutcomeOrStarts hop hu :)

theorem arrive_keepsOutcomeOrStarts (h : arrive k s = .next t) : s.KeepsOutcomeOrStarts t := by
  rcases arrive_next h with rfl | ⟨hosts, rfl⟩ | ⟨i, hosts, hop, haccept⟩
  · exact .inl ⟨rfl, rfl⟩
  · exact .inl ⟨rfl, rfl⟩
  · rcases accept_next haccept with ⟨-, -, rfl⟩ | ⟨-, hperform⟩
    · exact .inl ⟨rfl, rfl⟩
    · exact (perform_keepsOutcomeOrStarts hop hperform :)

theorem release_keepsOutcomeOrStarts (hheld : ∀ o ∈ s.held, hostOperation o.instr = true) (h : release k s = .next t) :
    s.KeepsOutcomeOrStarts t := by
  rcases release_next h with ⟨rfl, -⟩ | ⟨-, before, o, after, hsplit, -, hperform⟩
  · exact .inl ⟨rfl, rfl⟩
  · exact (perform_keepsOutcomeOrStarts (hheld o (by simp [hsplit])) hperform :)

/-- In DONE and FAILED the sequencer takes no step (42_sequencer.md R109, R110). -/
theorem seqStep_terminal (hsel : (decodeSelector s.selector).isSome = true) (hst : s.st = stDone ∨ s.st = stFailed) :
    seqStep s = .next s := by
  rcases hst with hst | hst <;> rw [seqStep_of hst (phase_zero hsel hst rfl) rfl] <;> rfl

theorem runMove_keepsOutcomeOrStarts {m : Move} (hsel : (decodeSelector s.selector).isSome = true)
    (hst : s.st = stDone ∨ s.st = stFailed) (hheld : ∀ o ∈ s.held, hostOperation o.instr = true)
    (h : runMove m s = .next t) : s.KeepsOutcomeOrStarts t := by
  cases m
  case host k => exact arrive_keepsOutcomeOrStarts h
  case seq =>
    cases (seqStep_terminal hsel hst).symm.trans h
    exact .inl ⟨rfl, rfl⟩
  case release k => exact release_keepsOutcomeOrStarts hheld h
  case run k =>
    cases h
    obtain ⟨env, hosts, lock, hrun⟩ := runHost_frame k s
    rw [hrun]
    exact .inl ⟨rfl, rfl⟩
  case inject init done =>
    cases h
    obtain ⟨banks, hinject⟩ := inject_frame init done s
    rw [hinject]
    exact .inl ⟨rfl, rfl⟩

end Moves

/-- Settles O53: the move of the step acts on a state with the same outcome, whose held operations are of HOST. -/
theorem noAttemptIsResumed : Obligations.NoAttemptIsResumed := by
  intro s t hi hst h
  have hheld : ∀ o ∈ s.ready.held, hostOperation o.instr = true := by
    intro o ho
    obtain ⟨o', ho', -, hinstr⟩ := mem_waiting ho
    rw [hinstr]
    exact (hi.heldOps o' ho').left
  exact runMove_keepsOutcomeOrStarts (s := s.ready) hi.selector hst hheld h

end Sys2Proof
end

section
/-! PROOFS. The refusals of CMD.PROGRAM, and what no agent changes while busy (43_host_commands.md R121, R125). -/

namespace Sys2Proof

open Machine

/-! ## The refusals of CMD.PROGRAM -/

/-- Settles O40: each refusal is the first branch of the operation whose condition holds. -/
theorem programRefusalsInOrder : Obligations.ProgramRefusalsInOrder := by
  intro s v pay hlen
  have hfits : ¬ 2 ^ 32 ≤ pay.length := Nat.not_le.mpr hlen
  refine ⟨fun hc => ?noProfile, fun hc hv h8 => ?widthMismatch, fun hc hv h8 hodd => ?oddPayload⟩
  case noProfile => exact (if_neg hfits).trans (congrArg Host.Outcome.next (withProfile_false _ hc))
  case widthMismatch =>
    exact (if_neg hfits).trans (congrArg Host.Outcome.next
      ((withProfile_true _ hc).trans (if_pos (by simp [hv, h8]))))
  case oddPayload =>
    exact (if_neg hfits).trans (congrArg Host.Outcome.next
      ((withProfile_true _ hc).trans ((if_neg (by simp [h8])).trans (if_pos (by simp [hv, hodd])))))

/-! ## The sequencer -/

/-- A sequencer step writes the banks, the trace, the environment and the registers of the attempt alone
(42_sequencer.md R97 to R110). -/
theorem execStep_frame {i : Instr} {s t : State} (hstep : hostOperation i = false) (h : exec i s = .next t) :
    ∃ banks trace env st ph reason poll idx scnt, t = { s with
      banks := banks, trace := trace, env := env, st := st, ph := ph, reason := reason, poll := poll, idx := idx,
      scnt := scnt } := by
  cases i <;> cases hstep
  case stepIdle | stepDone | stepFailed =>
    cases h
    exact ⟨_, _, _, _, _, _, _, _, _, rfl⟩
  case stepSetup =>
    obtain ⟨k, es, hexec, -⟩ := stepSetup_spec s
    cases hexec.symm.trans h
    exact ⟨_, _, _, _, _, _, _, _, _, rfl⟩
  case' stepReset => obtain ⟨v, es, e, hexec, -⟩ := stepReset_spec s
  case' stepWaitInit => obtain ⟨es, e, hexec, -⟩ := stepWaitInit_spec s
  case' stepShiftFrame => obtain ⟨v, es, e, hexec, -⟩ := stepShiftFrame_spec s
  case' stepShiftChunk => obtain ⟨v, es, e, hexec, -⟩ := stepShiftChunk_spec s
  case' stepCheckInit => obtain ⟨es, e, hexec, -⟩ := stepCheckInit_spec s
  case' stepPollDone => obtain ⟨es, e, hexec, -⟩ := stepPollDone_spec s
  case' stepCompleting => obtain ⟨v, es, e, hexec, -⟩ := stepCompleting_spec s
  all_goals
    cases hexec.symm.trans h
    split_ifs <;> exact ⟨_, _, _, _, _, _, _, _, _, rfl⟩

/-! ## Moves while busy -/

/-- The profile, the bounds, the session and the parameters are kept (43_host_commands.md R125). -/
def Machine.State.KeepsConfiguration (s t : State) : Prop :=
  t.profile = s.profile ∧ t.cfgv = s.cfgv ∧ t.iwb = s.iwb ∧ t.dwb = s.dwb ∧ t.w = s.w ∧ t.pay = s.pay ∧
  t.n = s.n ∧ t.params = s.params

theorem Machine.State.KeepsConfiguration.refl (s : State) : s.KeepsConfiguration s :=
  ⟨rfl, rfl, rfl, rfl, rfl, rfl, rfl, rfl⟩

section Moves
variable {k : Nat} {s t : State}

theorem seqStep_keepsConfiguration (h : seqStep s = .next t) : s.KeepsConfiguration t := by
  unfold seqStep at h
  split at h
  · next i hi =>
    obtain ⟨_, _, _, _, _, _, _, _, _, rfl⟩ := execStep_frame (decodeSelector_step hi) h
    exact (State.KeepsConfiguration.refl s :)
  · cases h
    exact .refl s

theorem cmdStatus_keepsConfiguration (h : perform k .cmdStatus s = .next t) : s.KeepsConfiguration t := by
  obtain ⟨_, hexec, rfl⟩ := perform_next h
  cases hexec
  rw [deliver_eq]
  exact (State.KeepsConfiguration.refl s :)

variable (hbusy : s.busy = true)
include hbusy

/-- The lock holds an operation that arrives while busy, unless it is CMD.STATUS (43_host_commands.md R117). -/
theorem accept_keepsConfiguration {i : Instr} (h : accept k i s = .next t) : s.KeepsConfiguration t := by
  rcases accept_next h with ⟨-, -, rfl⟩ | ⟨hidle | rfl, hperform⟩
  · exact .refl s
  · exact absurd hbusy (by simp [hidle])
  · exact cmdStatus_keepsConfiguration hperform

theorem arrive_keepsConfiguration (h : arrive k s = .next t) : s.KeepsConfiguration t := by
  rcases arrive_next h with rfl | ⟨hosts, rfl⟩ | ⟨i, hosts, -, haccept⟩
  · exact .refl t
  · exact .refl s
  · exact (accept_keepsConfiguration (s := { s with hosts := hosts }) hbusy haccept :)

/-- While busy nothing is released (43_host_commands.md R117). -/
theorem release_keepsConfiguration (h : release k s = .next t) : s.KeepsConfiguration t := by
  rcases release_next h with ⟨rfl, -⟩ | ⟨hidle, -⟩
  · exact .refl t
  · exact absurd hbusy (by simp [hidle])

theorem runMove_keepsConfiguration {m : Move} (h : runMove m s = .next t) : s.KeepsConfiguration t := by
  cases m
  case host k => exact arrive_keepsConfiguration hbusy h
  case seq => exact seqStep_keepsConfiguration h
  case release k => exact release_keepsConfiguration hbusy h
  case run k =>
    cases h
    obtain ⟨env, hosts, lock, hrun⟩ := runHost_frame k s
    rw [hrun]
    exact .refl s
  case inject init done =>
    cases h
    obtain ⟨banks, hinject⟩ := inject_frame init done s
    rw [hinject]
    exact .refl s

end Moves

/-- Settles O52: the move of the step acts on a state with the same configuration, busy as well. -/
theorem profileIsFixedDuringAnAttempt : Obligations.ProfileIsFixedDuringAnAttempt :=
  fun s _ hbusy h => runMove_keepsConfiguration (s := s.ready) hbusy h

end Sys2Proof
end

section
/-! PROOFS. The decoder and the encoder are inverse to each other, and which words are illegal (30_encoding.md R69 to
R76). -/

namespace Sys2Proof

open Machine Laws

/-! ## Decoding an encoding -/

/-- The extension words of CMD.CONFIG are read back, each base from its own words (30_encoding.md R71). -/
theorem decodeConfig_words {aw cb db : Nat} (hcb : cb < 2 ^ (32 * baseWords aw)) (hdb : db < 2 ^ (32 * baseWords aw))
    (pinw geow iwb dwb : Word) (rest : List Word) (pays : List (List Byte)) :
    decodeConfig aw (pinw :: geow ::
        (wordsOfNat (baseWords aw) cb ++ (wordsOfNat (baseWords aw) db ++ iwb :: dwb :: rest))) pays =
      .op (.cmdConfig pinw geow cb db iwb dwb) rest pays := by
  have hdrop : (wordsOfNat (baseWords aw) cb ++ (wordsOfNat (baseWords aw) db ++ iwb :: dwb :: rest)).drop
      (2 * baseWords aw) = iwb :: dwb :: rest := by
    rw [← List.append_assoc]
    exact List.drop_left' (by simp; omega)
  rw [decodeConfig, hdrop]
  simp [natOfWords_wordsOfNat, hcb, hdb]

/-- The words and payload of an operation decode to it, whatever follows them. -/
theorem decodeStream_hostOperation {aw : Nat} {i : Instr} (hop : hostOperation i = true) (hwf : i.wf aw = true)
    (rest : List Word) (more : List (List Byte)) :
    decodeStream aw ((encode aw i).words ++ rest) ((encode aw i).pays ++ more) = .op i rest more := by
  cases i
  case bswap | splice | setbit | getbit | pulse | setdir | rdreg | wrreg | ldw =>
    exact decodeStream_portOperation rfl hwf rfl rest more
  case cmdConfig pinw geow cb db iwb dwb =>
    obtain ⟨hcb, hdb⟩ : cb < 2 ^ (32 * baseWords aw) ∧ db < 2 ^ (32 * baseWords aw) := by simpa [Instr.wf] using hwf
    rw [decodeStream_encode (FirstWord.cmdConfig pinw geow cb db iwb dwb) rfl hwf]
    simpa [encode, Encoding.words, Encoding.pays, decodeFields] using
      decodeConfig_words hcb hdb pinw geow iwb dwb rest more
  case cmdProgram v pay =>
    rw [decodeStream_encode (FirstWord.cmdProgram v pay) rfl hwf]
    simp [encode, Encoding.words, Encoding.pays, decodeFields, odwPort]
  case cmdResetOnly => exact decodeStream_encode FirstWord.cmdResetOnly rfl hwf rest more
  case cmdStatus => exact decodeStream_encode FirstWord.cmdStatus rfl hwf rest more
  all_goals cases hop

/-- An operation of HOST is encoded in a stream. -/
theorem encode_hostOperation (aw : Nat) {i : Instr} (hop : hostOperation i = true) :
    encode aw i = .stream (encode aw i).words (encode aw i).pays := by
  cases i <;> cases hop <;> rfl

/-- A sequencer step is encoded in a selector, which decodes to it. -/
theorem encode_sequencerStep (aw : Nat) {i : Instr} (hop : hostOperation i = false) :
    ∃ sel, encode aw i = .selector sel ∧ decodeSelector sel = some i := by
  cases i <;> cases hop <;> exact ⟨_, rfl, rfl⟩

/-- Settles O1: an operation's words are read back field by field (`decodeStream_hostOperation`), a step's selector is
looked up. -/
theorem decodeOfEncodeIsTheInstruction : Obligations.DecodeOfEncodeIsTheInstruction := by
  intro aw i rest more hwf
  cases hop : hostOperation i
  case false =>
    obtain ⟨sel, henc, hdec⟩ := encode_sequencerStep aw hop
    rw [henc]
    exact hdec
  case true =>
    rw [encode_hostOperation aw hop]
    exact decodeStream_hostOperation hop hwf rest more

/-! ## Encoding what was decoded -/

/-- Where a row's mask covers a field, a matching word has the field of the row's pattern. -/
theorem extract_of_row {w m p : Word} (h : w &&& m = p) (start len : Nat)
    (hm : m.extractLsb' start len = BitVec.allOnes len) : w.extractLsb' start len = p.extractLsb' start len := by
  rw [← h, BitVec.extractLsb'_and, hm, BitVec.and_allOnes]

/-- A word with bits 7 to 5 clear is made of its fields (30_encoding.md R69). -/
theorem odw_of_fields {w : Word} (h : w.extractLsb' 5 3 = 0#3) :
    odw (odwOp w) (w.extractLsb' 23 1) (w.extractLsb' 22 1) (w.extractLsb' 21 1) (odwPin w) (odwByte w) (odwOffset w) =
      w := by
  have hclear (k : Nat) (h5 : 5 ≤ k) (h8 : k < 8) : w.getLsbD k = false := by
    have := congrArg (fun x => x.getLsbD (k - 5)) h
    simpa [show k - 5 < 3 by omega, show 5 + (k - 5) = k by omega] using this
  apply BitVec.eq_of_getLsbD_eq
  intro k hk
  rw [odw_getLsbD]
  simp only [odwOp, odwPin, odwByte, odwOffset, BitVec.getLsbD_extractLsb']
  split_ifs with h5 h8 h16 h21 h22 h23 h24
  · simp [h5]
  · rw [hclear k (by omega) h8]
  · simp [show k - 8 < 8 by omega, show 8 + (k - 8) = k by omega]
  · simp [show k - 16 < 5 by omega, show 16 + (k - 16) = k by omega]
  · simp [show k = 21 by omega]
  · simp [show k = 22 by omega]
  · simp [show k = 23 by omega]
  · simp [show k - 24 < 8 by omega, show 24 + (k - 24) = k by omega]

/-- A field of one bit. -/
theorem extract_bit (w : Word) (k : Nat) : w.extractLsb' k 1 = BitVec.ofBool (w.getLsbD k) := by
  apply BitVec.eq_of_getLsbD_eq
  intro j hj
  simp [show j = 0 by omega]

@[simp] theorem bankCode_odwBank (w : Word) : bankCode (odwBank w) = w.extractLsb' 23 1 := by
  rw [odwBank, extract_bit]
  cases w.getLsbD 23 <;> rfl

@[simp] theorem regCode_odwReg (w : Word) : regCode (odwReg w) = w.extractLsb' 21 1 := by
  rw [odwReg, extract_bit]
  cases w.getLsbD 21 <;> rfl

@[simp] theorem ofBool_odwValue (w : Word) : BitVec.ofBool (odwValue w) = w.extractLsb' 22 1 :=
  (extract_bit w 22).symm

/-- A field of a word that matches a row: the pattern's where the mask covers it, else the word's own. -/
def rowField (r : OdwRow) (w : Word) (start len : Nat) : BitVec len :=
  if r.mask.extractLsb' start len = BitVec.allOnes len then r.pattern.extractLsb' start len
  else w.extractLsb' start len

theorem rowField_eq {r : OdwRow} {w : Word} (h : w &&& r.mask = r.pattern) (start len : Nat) :
    rowField r w start len = w.extractLsb' start len := by
  unfold rowField
  split
  · next hm => exact (extract_of_row h start len hm).symm
  · rfl

/-- A matching word is made of the row's code and its fields. -/
theorem odw_rowFields {r : OdwRow} (hr : r ∈ odwRows) {w : Word} (h : w &&& r.mask = r.pattern) :
    odw (odwOp r.pattern) (rowField r w 23 1) (rowField r w 22 1) (rowField r w 21 1) (rowField r w 16 5)
      (rowField r w 8 8) (rowField r w 0 5) = w := by
  have hreserved : ∀ r ∈ odwRows, r.mask.extractLsb' 5 3 = BitVec.allOnes 3 ∧ r.pattern.extractLsb' 5 3 = 0#3 := by
    decide
  simp only [rowField_eq h, ← row_op hr h]
  exact odw_of_fields ((extract_of_row h 5 3 (hreserved r hr).1).trans (hreserved r hr).2)

/-- The extension words of CMD.CONFIG that decode are the words of what they decode to (30_encoding.md R71). -/
theorem words_of_decodeConfig {aw : Nat} {ws rest : List Word} {pays more : List (List Byte)} {i : Instr}
    (h : decodeConfig aw ws pays = .op i rest more) :
    odwBare 0x10#8 :: ws = (encode aw i).words ++ rest ∧ pays = (encode aw i).pays ++ more := by
  unfold decodeConfig at h
  split at h
  · next pinw geow ext =>
    split at h
    · next iwb dwb tail hdrop =>
      cases h
      have hlen : (ext.take (baseWords aw)).length = baseWords aw ∧
          ((ext.drop (baseWords aw)).take (baseWords aw)).length = baseWords aw := by
        have := congrArg List.length hdrop
        simp at this ⊢
        omega
      have hcb := wordsOfNat_natOfWords (ext.take (baseWords aw))
      have hdb := wordsOfNat_natOfWords ((ext.drop (baseWords aw)).take (baseWords aw))
      rw [hlen.1] at hcb
      rw [hlen.2] at hdb
      have hext : ext =
        ext.take (baseWords aw) ++ ((ext.drop (baseWords aw)).take (baseWords aw) ++ iwb :: dwb :: rest) := by
        rw [← hdrop, two_mul, ← List.drop_drop, List.take_append_drop, List.take_append_drop]
      refine ⟨?_, rfl⟩
      simp only [encode, Encoding.words, hcb, hdb, List.append_assoc, List.cons_append, List.nil_append]
      rw [← hext]
    · cases h
  · cases h

/-- The row of an operation code (30_encoding.md R72). -/
def rowOf (c : Opcode) : OdwRow := (odwRows.find? (fun r => r.code == c)).getD ⟨c, 0#32, 0#32⟩

theorem rowOf_mem (c : Opcode) : rowOf c ∈ odwRows := by cases c <;> decide

theorem rowOf_code : ∀ r ∈ odwRows, rowOf r.code = r := by decide

/-- The fields of a legal word, with its extension words and payload, are the encoding of the operation they decode to. -/
theorem words_of_decodeFields {aw : Nat} {c : Opcode} {w : Word} (hw : w &&& (rowOf c).mask = (rowOf c).pattern)
    {ws rest : List Word} {pays more : List (List Byte)} {i : Instr}
    (h : decodeFields aw c w ws pays = .op i rest more) :
    w :: ws = (encode aw i).words ++ rest ∧ pays = (encode aw i).pays ++ more := by
  have hword := (odw_rowFields (rowOf_mem c) hw).symm
  cases c <;> simp only [decodeFields] at h
  case config =>
    rw [hword]
    exact words_of_decodeConfig h
  case bswap | splice | resetOnly | status =>
    cases h
    exact ⟨congrArg (· :: _) hword, rfl⟩
  case setbit | getbit | pulse | rdreg | wrreg =>
    cases h
    simp only [encode, bankCode_odwBank, regCode_odwReg, ofBool_odwValue]
    exact ⟨congrArg (· :: _) hword, rfl⟩
  case ldw =>
    split at h
    · cases h
      exact ⟨congrArg (· :: _) hword, rfl⟩
    · cases h
  case setdir | program =>
    split at h
    · cases h
      simp only [encode, bankCode_odwBank, ofBool_odwValue]
      exact ⟨congrArg (· :: _) hword, rfl⟩
    · cases h

/-- No two selectors name the same step (30_encoding.md R76). -/
theorem decodeSelector_injective : ∀ a b : BitVec 5, (decodeSelector a).isSome = true →
    decodeSelector a = decodeSelector b → a = b := by decide

/-- Settles O2: the first word matches the row of its code, so it is made of the fields decoded from it
(`odw_rowFields`). -/
theorem decodedWordsAreTheEncoding : Obligations.DecodedWordsAreTheEncoding := by
  refine ⟨fun aw ws rest pays more i h => ⟨encode_hostOperation aw (decodeStream_host h), ?words⟩,
    fun aw sel i h => ?selector⟩
  case words =>
    unfold decodeStream at h
    split at h
    · cases h
    · split at h
      · cases h
      · next c hc =>
        obtain ⟨r, hr, hw, rfl, -⟩ := classify_ok hc
        exact words_of_decodeFields (by rwa [rowOf_code r hr]) h
  case selector =>
    obtain ⟨sel', henc, hdec⟩ := encode_sequencerStep aw (decodeSelector_step h)
    rw [henc, decodeSelector_injective sel sel' (by rw [h]; rfl) (h.trans hdec.symm)]

/-- Settles O3: each word is evaluated. -/
theorem sampleWordsDecode : Obligations.SampleWordsDecode := by
  unfold Obligations.SampleWordsDecode
  decide

/-! ## Illegal words -/

/-- A word is illegal whatever follows it, if its legality check fails. -/
theorem decodeStream_illegal_iff (aw : Nat) (w : Word) (rest : List Word) (pays : List (List Byte)) :
    (∃ e, decodeStream aw (w :: rest) pays = .illegal e) ↔ ∀ c, classify w ≠ .ok c := by
  rw [decodeStream]
  cases hc : classify w
  case error e => simp
  case ok c =>
    have hlegal (e : DecodeError) : decodeFields aw c w rest pays ≠ .illegal e := by
      cases c <;> simp only [decodeFields, decodeConfig] <;> (try split) <;> (try split) <;> nofun
    simp [hlegal]

/-- A word is legal when it matches the row of an operation code, with an offset in range if that is SPLICE. -/
theorem classify_ok_iff (w : Word) (c : Opcode) : classify w = .ok c ↔
    w &&& (rowOf c).mask = (rowOf c).pattern ∧ (c = .splice → (odwOffset w).toNat ≤ 24) := by
  have hcode : (rowOf c).code = c := by cases c <;> rfl
  constructor
  · intro h
    obtain ⟨r, hr, hw, rfl, hoff⟩ := classify_ok h
    rw [rowOf_code r hr]
    exact ⟨hw, hoff⟩
  · rintro ⟨hw, hoff⟩
    rw [classify_row (rowOf_mem c) hw, hcode, if_neg (fun h => absurd (hoff h.1) (Nat.not_le.mpr h.2))]

/-- A word is its operation code and the 24 bits below it. -/
theorem word_eq_iff (x y : Word) : x = y ↔ odwOp x = odwOp y ∧ x.extractLsb' 0 24 = y.extractLsb' 0 24 := by
  refine ⟨fun h => h ▸ ⟨rfl, rfl⟩, fun ⟨hop, hlow⟩ => BitVec.eq_of_getLsbD_eq fun k hk => ?_⟩
  by_cases h24 : k < 24
  · simpa [h24] using congrArg (fun z => z.getLsbD k) hlow
  · have := congrArg (fun z => z.getLsbD (k - 24)) hop
    simpa [odwOp, show k - 24 < 8 by omega, show 24 + (k - 24) = k by omega] using this

/-- The fields an operation code uses below it (30_encoding.md R69, R72). -/
def usedFields (op : Nat) : Word :=
  if op = 0x02 then 0x0000FF1F#32 else if op = 0x03 then 0x00DF0000#32
  else if op = 0x04 ∨ op = 0x05 then 0x009F0000#32 else if op = 0x06 then 0x00800000#32
  else if op = 0x07 ∨ op = 0x08 then 0x00A00000#32 else if op = 0x11 then 0x00400000#32 else 0#32

/-- A word matches a row exactly if it has the row's code and sets no bit outside the fields that code uses. -/
theorem row_matches_iff (c : Opcode) (w : Word) : w &&& (rowOf c).mask = (rowOf c).pattern ↔
    odwOp w = odwOp (rowOf c).pattern ∧
      w.extractLsb' 0 24 &&& ~~~((usedFields (odwOp w).toNat).extractLsb' 0 24) = 0#24 := by
  have hmask : (rowOf c).mask.extractLsb' 0 24 =
      ~~~((usedFields (odwOp (rowOf c).pattern).toNat).extractLsb' 0 24) := by cases c <;> decide
  have hpattern : (rowOf c).pattern.extractLsb' 0 24 = 0#24 := by cases c <;> decide
  constructor
  · intro h
    have hop := row_op (rowOf_mem c) h
    refine ⟨hop, ?_⟩
    rw [hop, ← hmask, ← BitVec.extractLsb'_and, h, hpattern]
  · rintro ⟨hop, hlow⟩
    have hcode : odwOp (rowOf c).mask = BitVec.allOnes 8 := row_mask_op _ (rowOf_mem c)
    rw [word_eq_iff, odwOp_and, hcode, BitVec.and_allOnes, BitVec.extractLsb'_and, hmask, hpattern, ← hop]
    exact ⟨rfl, hlow⟩

/-- The unassigned operation codes (30_encoding.md R73). -/
def unassignedCode (op : Nat) : Prop := op = 0x00 ∨ (0x0A ≤ op ∧ op ≤ 0x0F) ∨ 0x14 ≤ op

theorem rowOf_assigned (c : Opcode) : ¬ unassignedCode (odwOp (rowOf c).pattern).toNat := by
  unfold unassignedCode
  cases c <;> decide

theorem exists_rowOf {op : BitVec 8} (h : ¬ unassignedCode op.toNat) : ∃ c, odwOp (rowOf c).pattern = op := by
  have hcodes : ∀ n < 0x14, n ≠ 0 → ¬ (0x0A ≤ n ∧ n ≤ 0x0F) → ∃ r ∈ odwRows, (odwOp r.pattern).toNat = n := by decide
  simp only [unassignedCode, not_or, Nat.not_le] at h
  obtain ⟨r, hr, hop⟩ := hcodes op.toNat h.2.2 h.1 h.2.1
  exact ⟨r.code, by rw [rowOf_code r hr]; exact BitVec.eq_of_toNat_eq hop⟩

/-- Settles O4: a word is legal exactly if it matches the row of its code (`row_matches_iff`), and SPLICE's offset is in
range. -/
theorem illegalWordsAreExactlyThese : Obligations.IllegalWordsAreExactlyThese := by
  intro aw w rest pays op fields
  have hfields : fields = usedFields op := rfl
  have hsplice (c : Opcode) : c = .splice ↔ (odwOp (rowOf c).pattern).toNat = 0x02 := by cases c <;> decide
  rw [decodeStream_illegal_iff, hfields]
  constructor
  · intro hillegal
    by_contra hcases
    obtain ⟨hassigned, hrest⟩ := not_or.mp hcases
    obtain ⟨hlow, hoff⟩ := not_or.mp hrest
    rw [ne_eq, not_not] at hlow
    rw [not_and, Nat.not_lt] at hoff
    obtain ⟨c, hc⟩ := exists_rowOf (op := odwOp w) hassigned
    refine hillegal c ((classify_ok_iff w c).mpr ⟨(row_matches_iff c w).mpr ⟨hc.symm, hlow⟩, fun hs => hoff ?_⟩)
    exact (congrArg BitVec.toNat hc).symm.trans ((hsplice c).mp hs)
  · intro hcases c hc
    obtain ⟨hrow, hoff⟩ := (classify_ok_iff w c).mp hc
    obtain ⟨hop, hlow⟩ := (row_matches_iff c w).mp hrow
    have hopNat : op = (odwOp (rowOf c).pattern).toNat := congrArg BitVec.toNat hop
    rcases hcases with hun | hbits | ⟨h2, h24⟩
    · exact rowOf_assigned c (hopNat ▸ hun)
    · exact hbits hlow
    · exact absurd (hoff ((hsplice c).mpr (hopNat ▸ h2))) (Nat.not_le.mpr h24)

end Sys2Proof
end

section
/-! PROOFS. The assembler (30_encoding.md R79 to R81): what each line expands to, and that its words decode to that. -/

namespace Sys2Proof

open Machine

/-! ## Operands in turn -/

section Bind
variable {α β : Type} {x : Except AsmError α} {f : α → Except AsmError β}

theorem bind_of_ok {a : α} (h : x = .ok a) : (x >>= f) = f a := by rw [h]; rfl

theorem bind_of_error {e : AsmError} (h : x = .error e) : (x >>= f) = .error e := by rw [h]; rfl

theorem bind_ok {b : β} (h : (x >>= f) = .ok b) : ∃ a, x = .ok a ∧ f a = .ok b := by
  cases x
  case error => cases h
  case ok a => exact ⟨a, rfl, h⟩

/-- An operand that is right, or fails for its range alone. -/
def RangeChecked (x : Except AsmError α) : Prop := ∀ e, x = .error e → e = .operandRange

/-- Where an operand is checked for its range, an error for a later one's range is the line's error. -/
theorem bind_outOfRange (hx : RangeChecked x) (hf : ∀ a, f a = .error .operandRange) :
    (x >>= f) = .error .operandRange := by
  cases x
  case error e => rw [hx e rfl]; rfl
  case ok a => exact hf a

end Bind

theorem operand_rangeChecked (n x : Nat) : RangeChecked (operand n x) := by
  unfold operand
  split <;> rintro e ⟨⟩
  rfl

theorem offsetOperand_rangeChecked (x : Nat) : RangeChecked (offsetOperand x) := by
  unfold offsetOperand
  split
  · exact operand_rangeChecked 5 x
  · rintro e ⟨⟩
    rfl

theorem baseOperand_rangeChecked (aw x : Nat) : RangeChecked (baseOperand aw x) := by
  unfold baseOperand
  split <;> rintro e ⟨⟩
  rfl

theorem widthOperand_rangeChecked (x : Nat) : RangeChecked (widthOperand x) := by
  unfold widthOperand
  split
  · rintro e ⟨⟩
  · split <;> rintro e ⟨⟩
    rfl

theorem baseOperand_inRange {aw x : Nat} (h : x < 2 ^ (32 * baseWords aw)) : baseOperand aw x = .ok x := if_pos h

theorem baseOperand_outOfRange {aw x : Nat} (h : 2 ^ (32 * baseWords aw) ≤ x) :
    baseOperand aw x = .error .operandRange := if_neg (Nat.not_lt.mpr h)

theorem payloadOperand_inRange {pay : List Byte} (h : pay.length < 2 ^ 32) : payloadOperand pay = .ok pay := if_pos h

theorem payloadOperand_outOfRange {pay : List Byte} (h : 2 ^ 32 ≤ pay.length) :
    payloadOperand pay = .error .operandRange := if_neg (Nat.not_lt.mpr h)

theorem bitOperand_outOfRange {x : Nat} (h : 2 ≤ x) : bitOperand x = .error .operandRange := by
  rw [bitOperand, if_neg (by omega), if_neg (by omega)]

theorem widthOperand_outOfRange {x : Nat} (h : x ≠ 1 ∧ x ≠ 2) : widthOperand x = .error .operandRange := by
  rw [widthOperand, if_neg h.1, if_neg h.2]

/-- The pin a `pin` operand names: its number, or in bank CTRL the profile's pin of a signal (30_encoding.md R80). -/
theorem pinOperand_names {p : Profile} {b : Bank} {q : PinOperand} {i : BitVec 5}
    (h : q = .index i.toNat ∨ (b = .ctrl ∧ ∃ g, q = .signal g ∧ i = p.pin g)) : pinOperand p b q = .ok i := by
  rcases h with rfl | ⟨rfl, g, rfl, rfl⟩
  · exact pinOperand_index p b i
  · exact pinOperand_signal p .ctrl g

/-! ## Lines with operands out of range -/

section OutOfRange
variable {aw : Nat} {p : Profile}

theorem offset_outOfRange {o y : Nat} (h : 24 < o ∨ 256 ≤ y) (f : BitVec 5 → Byte → Except AsmError (List Instr)) :
    (do let o ← offsetOperand o; let y ← operand 8 y; f o y) = .error .operandRange := by
  rcases h with ho | hy
  · exact bind_of_error (offsetOperand_outOfRange ho)
  · exact bind_outOfRange (offsetOperand_rangeChecked o) fun _ => bind_of_error (operand_outOfRange hy)

theorem setdir_outOfRange (b : Bank) {o n : Nat} (h : 2 ^ 32 ≤ o ∨ 2 ^ 32 ≤ n) :
    (AsmLine.setdir b o n).expand aw p = .error .operandRange := by
  rcases h with ho | hn
  · exact bind_of_error (operand_outOfRange ho)
  · exact bind_outOfRange (operand_rangeChecked 32 o) fun _ => bind_of_error (operand_outOfRange hn)

theorem config_outOfRange {pinw geow cb db iwb dwb : Nat} (h : 2 ^ 32 ≤ pinw ∨ 2 ^ 32 ≤ geow ∨
    2 ^ (32 * baseWords aw) ≤ cb ∨ 2 ^ (32 * baseWords aw) ≤ db ∨ 2 ^ 32 ≤ iwb ∨ 2 ^ 32 ≤ dwb) :
    (AsmLine.config pinw geow cb db iwb dwb).expand aw p = .error .operandRange := by
  unfold AsmLine.expand
  rcases h with h | h
  · exact bind_of_error (operand_outOfRange h)
  refine bind_outOfRange (operand_rangeChecked 32 pinw) fun _ => ?_
  rcases h with h | h
  · exact bind_of_error (operand_outOfRange h)
  refine bind_outOfRange (operand_rangeChecked 32 geow) fun _ => ?_
  rcases h with h | h
  · exact bind_of_error (baseOperand_outOfRange h)
  refine bind_outOfRange (baseOperand_rangeChecked aw cb) fun _ => ?_
  rcases h with h | h
  · exact bind_of_error (baseOperand_outOfRange h)
  refine bind_outOfRange (baseOperand_rangeChecked aw db) fun _ => ?_
  rcases h with h | h
  · exact bind_of_error (operand_outOfRange h)
  exact bind_outOfRange (operand_rangeChecked 32 iwb) fun _ => bind_of_error (operand_outOfRange h)

theorem program_outOfRange {w : Nat} {pay : List Byte} (h : (w ≠ 1 ∧ w ≠ 2) ∨ 2 ^ 32 ≤ pay.length) :
    (AsmLine.program w pay).expand aw p = .error .operandRange := by
  rcases h with hw | hpay
  · exact bind_of_error (widthOperand_outOfRange hw)
  · exact bind_outOfRange (widthOperand_rangeChecked w) fun _ => bind_of_error (payloadOperand_outOfRange hpay)

end OutOfRange

/-! ## What a line expands to -/

/-- A line that expands gives at least one operation, and only well-formed operations of HOST. -/
theorem expand_wellFormed {aw : Nat} {p : Profile} {l : AsmLine} {is : List Instr} (h : l.expand aw p = .ok is) :
    is ≠ [] ∧ ∀ i ∈ is, hostOperation i = true ∧ i.wf aw = true := by
  cases l
  case bswap | rdreg | wrreg | resetOnly | status | clk | dirsetup =>
    cases h
    simp [hostOperation, Instr.wf]
  case ldw =>
    obtain ⟨imm, -, h⟩ := bind_ok h
    cases h
    simp [hostOperation, Instr.wf]
  case setbit | setdir =>
    obtain ⟨i, -, h⟩ := bind_ok h
    obtain ⟨v, -, h⟩ := bind_ok h
    cases h
    simp [hostOperation, Instr.wf]
  case getbit | pulse | set | clr =>
    obtain ⟨i, -, h⟩ := bind_ok h
    cases h
    simp [hostOperation, Instr.wf]
  case splice | putb =>
    obtain ⟨o, ho, h⟩ := bind_ok h
    obtain ⟨y, -, h⟩ := bind_ok h
    cases h
    simp [hostOperation, Instr.wf, offsetOperand_ok ho]
  case config =>
    obtain ⟨pinw, -, h⟩ := bind_ok h
    obtain ⟨geow, -, h⟩ := bind_ok h
    obtain ⟨cb, hcb, h⟩ := bind_ok h
    obtain ⟨db, hdb, h⟩ := bind_ok h
    obtain ⟨iwb, -, h⟩ := bind_ok h
    obtain ⟨dwb, -, h⟩ := bind_ok h
    cases h
    simp [hostOperation, Instr.wf, (baseOperand_ok hcb).2, (baseOperand_ok hdb).2]
  case program =>
    obtain ⟨v, -, h⟩ := bind_ok h
    obtain ⟨pay, hpay, h⟩ := bind_ok h
    cases h
    simpa [hostOperation, Instr.wf] using (payloadOperand_ok hpay).2

/-- The words of a line that expands decode to what it expands to. -/
theorem assemble_decodesTo {aw : Nat} {p : Profile} {l : AsmLine} {is : List Instr} (h : l.expand aw p = .ok is) :
    ∃ ws ps, l.assemble aw p = .ok (ws, ps) ∧ DecodesTo aw is ws ps :=
  ⟨_, _, assemble_of_expand h, decodesTo_of_each fun i hi rest more =>
    decodeStream_hostOperation ((expand_wellFormed h).2 i hi).1 ((expand_wellFormed h).2 i hi).2 rest more⟩

/-- The lines of one pin (30_encoding.md R79, R81). -/
theorem expand_pinLines {aw : Nat} {p : Profile} {b : Bank} {q : PinOperand} {i : BitVec 5}
    (h : pinOperand p b q = .ok i) :
    (AsmLine.setbit b q 0).expand aw p = .ok [.setbit b false i] ∧
    (AsmLine.setbit b q 1).expand aw p = .ok [.setbit b true i] ∧
    (AsmLine.getbit b q).expand aw p = .ok [.getbit b i] ∧ (AsmLine.pulse b q).expand aw p = .ok [.pulse b i] ∧
    (AsmLine.set b q).expand aw p = .ok [.setbit b true i] ∧
    (AsmLine.clr b q).expand aw p = .ok [.setbit b false i] :=
  ⟨bind_of_ok h, bind_of_ok h, bind_of_ok h, bind_of_ok h, bind_of_ok h, bind_of_ok h⟩

/-- A pin operand that is an error makes each line of one pin that error. -/
theorem expand_pinLines_error {aw : Nat} {p : Profile} {b : Bank} {q : PinOperand} {e : AsmError}
    (h : pinOperand p b q = .error e) (v : Nat) :
    (AsmLine.setbit b q v).expand aw p = .error e ∧ (AsmLine.getbit b q).expand aw p = .error e ∧
    (AsmLine.pulse b q).expand aw p = .error e ∧ (AsmLine.set b q).expand aw p = .error e ∧
    (AsmLine.clr b q).expand aw p = .error e :=
  ⟨bind_of_error h, bind_of_error h, bind_of_error h, bind_of_error h, bind_of_error h⟩

/-- Settles O60: each operand in turn is accepted or is the line's error; a line's words decode operation by operation
(`assemble_decodesTo`). -/
theorem assembledLinesAreWellFormed : Obligations.AssembledLinesAreWellFormed := by
  intro aw p line outOfRange onData signal names top
  have hnames {b : Bank} {q : PinOperand} {i : BitVec 5} (h : names b q i) : pinOperand p b q = .ok i := by
    refine pinOperand_names (h.imp_right fun ⟨hb, g, hq, hi⟩ => ⟨hb, g, hq, hi.trans ?_⟩)
    cases g <;> rfl
  refine ⟨⟨rfl, rfl, rfl⟩, fun o y ho => ?splice, fun imm => bind_of_ok (operand_toNat imm), fun b r => ⟨rfl, rfl⟩,
    fun b q i h => expand_pinLines (hnames h), fun b o n => ?setdir, fun pinw geow iwb dwb cb db hcb hdb => ?config,
    fun pay hpay => ⟨bind_of_ok (payloadOperand_inRange hpay), bind_of_ok (payloadOperand_inRange hpay)⟩, rfl,
    fun o y ho => ?putb, rfl, fun g v => expand_pinLines_error (pinOperand_signal p .data g) v,
    fun o y h => ⟨offset_outOfRange h _, offset_outOfRange h _⟩,
    fun b n v h => expand_pinLines_error (pinOperand_outOfRange p b h) v, fun b q i v h hv => ?bit,
    fun imm h => bind_of_error (operand_outOfRange h), fun b o n h => setdir_outOfRange b h,
    fun pinw geow cb db iwb dwb h => config_outOfRange h, fun w pay h => program_outOfRange h,
    fun l is h => ⟨(expand_wellFormed h).1, (expand_wellFormed h).2, assemble_decodesTo h⟩,
    fun l e h => assemble_of_error h⟩
  case splice | putb => exact (bind_of_ok (offsetOperand_toNat ho)).trans (bind_of_ok (operand_toNat y))
  case setdir => exact (bind_of_ok (operand_toNat o)).trans (bind_of_ok (operand_toNat n))
  case config =>
    exact (bind_of_ok (operand_toNat pinw)).trans ((bind_of_ok (operand_toNat geow)).trans
      ((bind_of_ok (baseOperand_inRange hcb)).trans ((bind_of_ok (baseOperand_inRange hdb)).trans
        ((bind_of_ok (operand_toNat iwb)).trans (bind_of_ok (operand_toNat dwb))))))
  case bit => exact (bind_of_ok (hnames h)).trans (bind_of_error (bitOperand_outOfRange hv))

end Sys2Proof
end

section
/-! PROOFS. What one step of the busy sequencer can do (42_sequencer.md R95 to R108), each outcome with the whole next
state; later proofs about attempts take a step apart with it and do not run the step rules again. -/

namespace Sys2Proof

open Machine

/-- One step of the busy sequencer, by its outcome: the next state, the transactions and the reads it has made, and the new
control latch on the output pins. -/
inductive Machine.Row (s : State) : State → Prop
  | setup (k : Banks) (es : List Entry) (hst : s.st = stSetup) (hlen : es.length = 6)
      (hctrl : ∀ j, k.dirCtrl.getLsbD (rbit j) =
        (pinOf s.profile.ctrlOut j || (s.banks.dirCtrl.getLsbD (rbit j) && !pinOf s.profile.ctrlIn j)))
      (hdata : ∀ j, k.dirData.getLsbD (rbit j) = (pinOf s.profile.dataOut j || s.banks.dirData.getLsbD (rbit j))) :
      Row s { s with banks := k, trace := s.trace ++ es, ph := false, st := stReset }
  | resetOnly (v : Word) (es : List Entry) (e : Env) (hst : s.st = stReset) (hph : s.ph = false) (hro : s.ro = true)
      (hlen : es.length = 11) :
      Row s { s with
        banks := { s.banks with outCtrl := v }, trace := s.trace ++ es, env := e, reason := .none, st := stDone }
  | resetZeroBound (v : Word) (es : List Entry) (e : Env) (hst : s.st = stReset) (hro : s.ro = false) (hiwb : s.iwb = 0#32)
      (hlen : es.length = 11) :
      Row s { s with
        banks := { s.banks with outCtrl := v }, trace := s.trace ++ es, env := e, poll := 0#32,
        reason := .initTimeout, ph := false, st := stFailed }
  | resetWaits (v : Word) (es : List Entry) (e : Env) (hst : s.st = stReset) (hph : s.ph = false) (hro : s.ro = false)
      (hiwb : s.iwb ≠ 0#32) (hlen : es.length = 11) (hreads : s.env.Reads 5 e)
      (hlatch : ∀ j, s.banks.dirCtrl.getLsbD (rbit j) = true → v.getLsbD (rbit j) =
        if j = s.profile.pinProgram ∨ j = s.profile.pinClock ∨ j = s.profile.pinRdwr ∨ j = s.profile.pinCsi then true
        else s.banks.outCtrl.getLsbD (rbit j)) :
      Row s { s with
        banks := { s.banks with outCtrl := v }, trace := s.trace ++ es, env := e, poll := 0#32, st := stWaitInit }
  | initReady (es : List Entry) (e : Env) (hst : s.st = stWaitInit) (hpin : s.getBit .ctrl s.profile.pinInit = true)
      (hlen : es.length = 1) :
      Row s { s with
        trace := s.trace ++ es, env := e, poll := s.poll + 1#32, idx := 0#32, ph := false, st := stShifting }
  | initTimeout (es : List Entry) (e : Env) (hst : s.st = stWaitInit) (hpin : s.getBit .ctrl s.profile.pinInit = false)
      (hpoll : s.poll + 1#32 = s.iwb) (hlen : es.length = 1) :
      Row s { s with
        trace := s.trace ++ es, env := e, poll := s.poll + 1#32, reason := .initTimeout, ph := false, st := stFailed }
  | initWaits (es : List Entry) (e : Env) (hst : s.st = stWaitInit) (hpin : s.getBit .ctrl s.profile.pinInit = false)
      (hpoll : s.poll + 1#32 ≠ s.iwb) (hlen : es.length = 1) (hreads : s.env.Reads 1 e) :
      Row s { s with trace := s.trace ++ es, env := e, poll := s.poll + 1#32 }
  | nothingToShift (v : Word) (es : List Entry) (e : Env) (hst : s.st = stShifting) (hph : s.ph = false)
      (hn : s.n = 0#32) (hlen : es.length = 12)
      (hlatch : ∀ j, s.banks.dirCtrl.getLsbD (rbit j) = true → v.getLsbD (rbit j) =
        if j = s.profile.pinClock then true
        else if j = s.profile.pinCsi ∨ j = s.profile.pinRdwr then false
        else s.banks.outCtrl.getLsbD (rbit j)) :
      Row s { s with
        banks := { s.banks with outCtrl := v }, trace := s.trace ++ es, env := e, ph := false, st := stWaitDone }
  | chunksBegin (v : Word) (es : List Entry) (e : Env) (hst : s.st = stShifting) (hph : s.ph = false)
      (hn : s.n ≠ 0#32) (hlen : es.length = 12)
      (hlatch : ∀ j, s.banks.dirCtrl.getLsbD (rbit j) = true → v.getLsbD (rbit j) =
        if j = s.profile.pinClock then true
        else if j = s.profile.pinCsi ∨ j = s.profile.pinRdwr then false
        else s.banks.outCtrl.getLsbD (rbit j)) :
      Row s { s with banks := { s.banks with outCtrl := v }, trace := s.trace ++ es, env := e, ph := true }
  | lastChunk (v d : Word) (es : List Entry) (e : Env) (hst : s.st = stShifting) (hph : s.ph = true)
      (hidx : s.idx + s.busWidth = s.n) (hlen : es.length = 5)
      (hlatch : ∀ j, s.banks.dirCtrl.getLsbD (rbit j) = true → v.getLsbD (rbit j) =
        if j = s.profile.pinClock then true else s.banks.outCtrl.getLsbD (rbit j)) :
      Row s { s with
        banks := { s.banks with outCtrl := v, outData := d }, trace := s.trace ++ es, env := e,
        idx := s.idx + s.busWidth, ph := false, st := stWaitDone }
  | moreChunks (v d : Word) (es : List Entry) (e : Env) (hst : s.st = stShifting) (hph : s.ph = true)
      (hidx : s.idx + s.busWidth ≠ s.n) (hlen : es.length = 5)
      (hlatch : ∀ j, s.banks.dirCtrl.getLsbD (rbit j) = true → v.getLsbD (rbit j) =
        if j = s.profile.pinClock then true else s.banks.outCtrl.getLsbD (rbit j)) :
      Row s { s with
        banks := { s.banks with outCtrl := v, outData := d }, trace := s.trace ++ es, env := e,
        idx := s.idx + s.busWidth }
  | rejected (es : List Entry) (e : Env) (hst : s.st = stWaitDone) (hph : s.ph = false)
      (hpin : s.getBit .ctrl s.profile.pinInit = false) (hlen : es.length = 1) :
      Row s { s with trace := s.trace ++ es, env := e, reason := .programmingRejected, ph := false, st := stFailed }
  | doneZeroBound (es : List Entry) (e : Env) (hst : s.st = stWaitDone) (hph : s.ph = false)
      (hpin : s.getBit .ctrl s.profile.pinInit = true) (hdwb : s.dwb = 0#32) (hlen : es.length = 1) :
      Row s { s with
        trace := s.trace ++ es, env := e, poll := 0#32, reason := .doneTimeout, ph := false, st := stFailed }
  | pollsBegin (es : List Entry) (e : Env) (hst : s.st = stWaitDone) (hph : s.ph = false)
      (hpin : s.getBit .ctrl s.profile.pinInit = true) (hdwb : s.dwb ≠ 0#32) (hlen : es.length = 1)
      (hreads : s.env.Reads 1 e) :
      Row s { s with trace := s.trace ++ es, env := e, poll := 0#32, ph := true }
  | doneHigh (es : List Entry) (e : Env) (hst : s.st = stWaitDone) (hph : s.ph = true)
      (hpin : s.getBit .ctrl s.profile.pinDone = true) (hlen : es.length = 1) :
      Row s { s with
        trace := s.trace ++ es, env := e, poll := s.poll + 1#32, scnt := 0#4, ph := false, st := stCompleting }
  | doneTimeout (es : List Entry) (e : Env) (hst : s.st = stWaitDone) (hph : s.ph = true)
      (hpin : s.getBit .ctrl s.profile.pinDone = false) (hpoll : s.poll + 1#32 = s.dwb) (hlen : es.length = 1) :
      Row s { s with
        trace := s.trace ++ es, env := e, poll := s.poll + 1#32, reason := .doneTimeout, ph := false, st := stFailed }
  | doneWaits (es : List Entry) (e : Env) (hst : s.st = stWaitDone) (hph : s.ph = true)
      (hpin : s.getBit .ctrl s.profile.pinDone = false) (hpoll : s.poll + 1#32 ≠ s.dwb) (hlen : es.length = 1)
      (hreads : s.env.Reads 1 e) :
      Row s { s with trace := s.trace ++ es, env := e, poll := s.poll + 1#32 }
  | lastPulse (v : Word) (es : List Entry) (e : Env) (hst : s.st = stCompleting) (hph : s.ph = false)
      (hscnt : s.scnt + 1#4 = 8#4) (hlen : es.length = 3) :
      Row s { s with
        banks := { s.banks with outCtrl := v }, trace := s.trace ++ es, env := e, scnt := s.scnt + 1#4,
        reason := .none, st := stDone }
  | morePulses (v : Word) (es : List Entry) (e : Env) (hst : s.st = stCompleting) (hph : s.ph = false)
      (hscnt : s.scnt + 1#4 ≠ 8#4) (hlen : es.length = 3)
      (hlatch : ∀ j, s.banks.dirCtrl.getLsbD (rbit j) = true → v.getLsbD (rbit j) =
        if j = s.profile.pinClock then true else s.banks.outCtrl.getLsbD (rbit j)) :
      Row s { s with
        banks := { s.banks with outCtrl := v }, trace := s.trace ++ es, env := e, scnt := s.scnt + 1#4 }

/-- The states of a busy sequencer (10_state.md R38). -/
theorem busy_cases {s : State} (h : s.busy = true) : s.st = stSetup ∨ s.st = stReset ∨ s.st = stWaitInit ∨
    s.st = stShifting ∨ s.st = stWaitDone ∨ s.st = stCompleting := by
  simpa [State.busy, busyCode, or_assoc] using h

/-- A step of the busy sequencer is one of the rows. -/
theorem seqStep_row {s t : State} (hsel : (decodeSelector s.selector).isSome = true) (hbusy : s.busy = true)
    (h : seqStep s = .next t) : Row s t := by
  rcases busy_cases hbusy with hst | hst | hst | hst | hst | hst
  · obtain ⟨k, es, hexec, hlen, hctrl, hdata, -⟩ := stepSetup_spec s
    rw [seqStep_of hst (phase_zero hsel hst rfl) rfl, hexec] at h
    cases h
    exact .setup k es hst hlen hctrl hdata
  · have hph := phase_zero hsel hst rfl
    obtain ⟨v, es, e, hexec, hlen, hreads, hlatch⟩ := stepReset_spec s
    rw [seqStep_of hst hph rfl, hexec] at h
    cases h
    split_ifs with hro hiwb
    · exact .resetOnly v es e hst hph hro hlen
    · exact .resetZeroBound v es e hst (by simpa using hro) hiwb hlen
    · exact .resetWaits v es e hst hph (by simpa using hro) hiwb hlen hreads hlatch
  · obtain ⟨es, e, hexec, hlen, hreads⟩ := stepWaitInit_spec s
    rw [seqStep_of hst (phase_zero hsel hst rfl) rfl, hexec] at h
    cases h
    split_ifs with hpin hpoll
    · exact .initReady es e hst hpin hlen
    · exact .initTimeout es e hst (by simpa using hpin) hpoll hlen
    · exact .initWaits es e hst (by simpa using hpin) hpoll hlen hreads
  · cases hph : s.ph
    case false =>
      obtain ⟨v, es, e, hexec, hlen, -, hlatch⟩ := stepShiftFrame_spec s
      rw [seqStep_of hst hph rfl, hexec] at h
      cases h
      split_ifs with hn
      · exact .nothingToShift v es e hst hph hn hlen hlatch
      · exact .chunksBegin v es e hst hph hn hlen hlatch
    case true =>
      obtain ⟨v, es, e, hexec, hlen, -, hlatch⟩ := stepShiftChunk_spec s
      rw [seqStep_of hst hph rfl, hexec] at h
      cases h
      split_ifs with hidx
      · exact .lastChunk v _ es e hst hph hidx hlen hlatch
      · exact .moreChunks v _ es e hst hph hidx hlen hlatch
  · cases hph : s.ph
    case false =>
      obtain ⟨es, e, hexec, hlen, hreads⟩ := stepCheckInit_spec s
      rw [seqStep_of hst hph rfl, hexec] at h
      cases h
      split_ifs with hpin hdwb
      · exact .rejected es e hst hph hpin hlen
      · exact .doneZeroBound es e hst hph (by simpa using hpin) hdwb hlen
      · exact .pollsBegin es e hst hph (by simpa using hpin) hdwb hlen hreads
    case true =>
      obtain ⟨es, e, hexec, hlen, hreads⟩ := stepPollDone_spec s
      rw [seqStep_of hst hph rfl, hexec] at h
      cases h
      split_ifs with hpin hpoll
      · exact .doneHigh es e hst hph hpin hlen
      · exact .doneTimeout es e hst hph (by simpa using hpin) hpoll hlen
      · exact .doneWaits es e hst hph (by simpa using hpin) hpoll hlen hreads
  · have hph := phase_zero hsel hst rfl
    obtain ⟨v, es, e, hexec, hlen, -, hlatch⟩ := stepCompleting_spec s
    rw [seqStep_of hst hph rfl, hexec] at h
    cases h
    split_ifs with hscnt
    · exact .lastPulse v es e hst hph hscnt hlen
    · exact .morePulses v es e hst hph hscnt hlen hlatch

end Sys2Proof
end

section
/-! PROOFS. The sequencer keeps the invariant: an attempt is in one of seven phases, and each row of the transition table
leads from a phase to a phase or ends the attempt (30_encoding.md R67, 42_sequencer.md R95). -/

namespace Sys2Proof

open Machine

/-! ## The phases of an attempt -/

/-- What the invariant says of a busy state, whatever its phase. -/
structure Machine.State.Attempting (s : State) : Prop where
  params : s.params.wellFormed = true
  noFault : s.fault = false
  configured : s.cfgv = true
  profile : s.profile.wellFormed s.params = true
  length : s.n.toNat = s.pay.length
  twoBytes : s.ro = false → s.w = true → s.profile.dataWidthBits = 16#5 ∧ s.pay.length % 2 = 0
  idxBound : s.idx.toNat ≤ s.n.toNat
  startup : s.scnt.toNat ≤ Config.startupClocks.toNat
  reason : s.reason = .none
  heldOps : ∀ h ∈ s.held, hostOperation h.instr = true ∧ h.instr ≠ .cmdStatus

/-- The pins of a full attempt: SETUP's directions, PROGRAM and CLOCK at 1, CSI and RDWR at a common level
(30_encoding.md R67). -/
structure Machine.State.Driven (s : State) (level : Bool) : Prop where
  full : s.ro = false
  directions : s.DirectionsSet
  program : s.level .program = true
  clock : s.level .clock = true
  csi : s.level .csi = level
  rdwr : s.level .rdwr = level

/-- The phases of an attempt, with what the invariant says of each. -/
inductive Machine.State.Phase (s : State) : Prop
  | setup (hst : s.st = stSetup) (hph : s.ph = false)
  | reset (hst : s.st = stReset) (hph : s.ph = false) (hdir : s.DirectionsSet)
  | waitInit (hst : s.st = stWaitInit) (hph : s.ph = false) (hpins : s.Driven true) (hpoll : s.poll.toNat < s.iwb.toNat)
  | framing (hst : s.st = stShifting) (hph : s.ph = false) (hpins : s.Driven true) (hidx : s.idx = 0#32)
  | chunk (hst : s.st = stShifting) (hph : s.ph = true) (hpins : s.Driven false)
      (hdue : s.idx.toNat < s.n.toNat ∧ (s.w = true → s.idx.toNat % 2 = 0))
  | waitDone (hst : s.st = stWaitDone) (hpins : s.Driven false) (hidx : s.idx = s.n)
      (hpoll : s.ph = true → s.poll.toNat < s.dwb.toNat)
  | completing (hst : s.st = stCompleting) (hph : s.ph = false) (hpins : s.Driven false) (hidx : s.idx = s.n)
      (hscnt : s.scnt.toNat < 8)

/-- What holds in one state of the sequencer says nothing in another. -/
theorem vacuous {s : State} {a b : BitVec 4} {P : Prop} (hst : s.st = a) (hne : a ≠ b) : s.st = b → P :=
  fun h => absurd (hst.symm.trans h) hne

theorem vacuous_or {s : State} {a b c : BitVec 4} {P : Prop} (hst : s.st = a) (hb : a ≠ b) (hc : a ≠ c) :
    s.st = b ∨ s.st = c → P :=
  fun h => h.elim (vacuous hst hb) (vacuous hst hc)

/-- The levels of an attempt that has been reset (30_encoding.md R67). -/
theorem Machine.State.Driven.levels {s : State} {level : Bool} (h : s.Driven level) (hreset : s.afterReset = level)
    (hframing : s.afterFraming = !level) : s.LevelsByState := by
  refine ⟨fun _ => h.program, fun _ => h.clock, fun hr => ?_, fun hf => ?_⟩
  · rw [h.csi, h.rdwr, ← hreset, hr]
    exact ⟨rfl, rfl⟩
  · rw [hframing, Bool.not_eq_true'] at hf
    rw [h.csi, h.rdwr, hf]
    exact ⟨rfl, rfl⟩

/-- The levels are free until RESET (30_encoding.md R67). -/
theorem levels_beforeReset {s : State} (hreset : s.afterReset = false) (hframing : s.afterFraming = false) :
    s.LevelsByState := by
  constructor <;> simp [hreset, hframing]

/-- The invariant of a busy state: what every phase has, and the fields that speak of some states only. -/
theorem Machine.State.Attempting.inv {s : State} (h : s.Attempting) {a : BitVec 4} {b : Bool} (hst : s.st = a)
    (hph : s.ph = b) (hsel : (decodeSelector (BitVec.ofBool b ++ a)).isSome = true) (hne : a ≠ stFailed)
    (full : s.afterReset = true ∨ s.afterFraming = true → s.ro = false)
    (framing : s.st = stShifting → s.ph = false → s.idx = 0#32)
    (chunkDue : s.st = stShifting → s.ph = true → s.idx.toNat < s.n.toNat ∧ (s.w = true → s.idx.toNat % 2 = 0))
    (shifted : s.st = stWaitDone ∨ s.st = stCompleting → s.idx = s.n)
    (initPolls : s.st = stWaitInit → s.poll.toNat < s.iwb.toNat)
    (donePolls : s.st = stWaitDone → s.ph = true → s.poll.toNat < s.dwb.toNat)
    (startupDue : s.st = stCompleting → s.scnt.toNat < Config.startupClocks.toNat)
    (directions : s.st ≠ stSetup → s.DirectionsSet) (levels : s.LevelsByState) : s.Inv where
  params := h.params
  noFault := h.noFault
  selector := selector_isSome hst hph hsel
  profile := fun _ => h.profile
  configured := fun _ => h.configured
  length := h.length
  twoBytes := fun _ => h.twoBytes
  full := full
  idxBound := h.idxBound
  framing := framing
  chunkDue := chunkDue
  shifted := shifted
  initPolls := initPolls
  donePolls := donePolls
  startup := h.startup
  startupDue := startupDue
  reason := ⟨vacuous hst hne, fun hr => absurd h.reason hr⟩
  directions := fun _ => directions
  levels := levels
  heldOps := h.heldOps

/-- Each phase has the fields that speak of its state; the others say nothing of it. -/
theorem inv_of_phase {s : State} (ha : s.Attempting) (hp : s.Phase) : s.Inv := by
  cases hp
  case setup hst hph =>
    have hr : s.afterReset = false := by rw [State.afterReset, hst]; rfl
    have hf : s.afterFraming = false := by rw [State.afterFraming, hst]; rfl
    exact ha.inv hst hph rfl (by decide) (by simp [hr, hf]) (vacuous hst (by decide)) (vacuous hst (by decide))
      (vacuous_or hst (by decide) (by decide)) (vacuous hst (by decide)) (vacuous hst (by decide))
      (vacuous hst (by decide)) (fun hne => absurd hst hne) (levels_beforeReset hr hf)
  case reset hst hph hdir =>
    have hr : s.afterReset = false := by rw [State.afterReset, hst]; rfl
    have hf : s.afterFraming = false := by rw [State.afterFraming, hst]; rfl
    exact ha.inv hst hph rfl (by decide) (by simp [hr, hf]) (vacuous hst (by decide)) (vacuous hst (by decide))
      (vacuous_or hst (by decide) (by decide)) (vacuous hst (by decide)) (vacuous hst (by decide))
      (vacuous hst (by decide)) (fun _ => hdir) (levels_beforeReset hr hf)
  case waitInit hst hph hpins hpoll =>
    exact ha.inv hst hph rfl (by decide) (fun _ => hpins.full) (vacuous hst (by decide)) (vacuous hst (by decide))
      (vacuous_or hst (by decide) (by decide)) (fun _ => hpoll) (vacuous hst (by decide)) (vacuous hst (by decide))
      (fun _ => hpins.directions)
      (hpins.levels (by rw [State.afterReset, hst]; rfl) (by rw [State.afterFraming, hst]; rfl))
  case framing hst hph hpins hidx =>
    exact ha.inv hst hph rfl (by decide) (fun _ => hpins.full) (fun _ _ => hidx) (fun _ h => by simp [hph] at h)
      (vacuous_or hst (by decide) (by decide)) (vacuous hst (by decide)) (vacuous hst (by decide))
      (vacuous hst (by decide)) (fun _ => hpins.directions)
      (hpins.levels (by rw [State.afterReset, hst, hph]; rfl) (by rw [State.afterFraming, hst, hph]; rfl))
  case chunk hst hph hpins hdue =>
    exact ha.inv hst hph rfl (by decide) (fun _ => hpins.full) (fun _ h => by simp [hph] at h) (fun _ _ => hdue)
      (vacuous_or hst (by decide) (by decide)) (vacuous hst (by decide)) (vacuous hst (by decide))
      (vacuous hst (by decide)) (fun _ => hpins.directions)
      (hpins.levels (by rw [State.afterReset, hst, hph]; rfl) (by rw [State.afterFraming, hst, hph]; rfl))
  case waitDone hst hpins hidx hpoll =>
    exact ha.inv hst rfl (by cases s.ph <;> rfl) (by decide) (fun _ => hpins.full) (vacuous hst (by decide))
      (vacuous hst (by decide)) (fun _ => hidx) (vacuous hst (by decide)) (fun _ => hpoll) (vacuous hst (by decide))
      (fun _ => hpins.directions)
      (hpins.levels (by rw [State.afterReset, hst]; rfl) (by rw [State.afterFraming, hst]; cases s.ph <;> rfl))
  case completing hst hph hpins hidx hscnt =>
    exact ha.inv hst hph rfl (by decide) (fun _ => hpins.full) (vacuous hst (by decide)) (vacuous hst (by decide))
      (fun _ => hidx) (vacuous hst (by decide)) (vacuous hst (by decide)) (fun _ => hscnt) (fun _ => hpins.directions)
      (hpins.levels (by rw [State.afterReset, hst]; rfl) (by rw [State.afterFraming, hst]; rfl))

section Inv
variable {s t : State} (hi : s.Inv)
include hi

/-- What the invariant says of a busy state. -/
theorem Machine.State.Inv.attempting (hbusy : s.busy = true) : s.Attempting where
  params := hi.params
  noFault := hi.noFault
  configured := hi.configured hbusy
  profile := hi.profile (hi.configured hbusy)
  length := hi.length
  twoBytes := hi.twoBytes hbusy
  idxBound := hi.idxBound
  startup := hi.startup
  reason := by
    by_contra hne
    rw [State.busy, hi.reason.mpr hne] at hbusy
    cases hbusy
  heldOps := hi.heldOps

/-- The pins of an attempt between the RESET step and the framing. -/
theorem Machine.State.Inv.driven_high (h : s.afterReset = true) (hbusy : s.busy = true) (hne : s.st ≠ stSetup) :
    s.Driven true where
  full := hi.full (.inl h)
  directions := hi.directions hbusy hne
  program := hi.levels.program (.inl h)
  clock := hi.levels.clock (.inl h)
  csi := (hi.levels.high h).1
  rdwr := (hi.levels.high h).2

/-- The pins of an attempt after the framing. -/
theorem Machine.State.Inv.driven_low (h : s.afterFraming = true) (hbusy : s.busy = true) (hne : s.st ≠ stSetup) :
    s.Driven false where
  full := hi.full (.inr h)
  directions := hi.directions hbusy hne
  program := hi.levels.program (.inr h)
  clock := hi.levels.clock (.inr h)
  csi := (hi.levels.low h).1
  rdwr := (hi.levels.low h).2

/-- Every busy state that meets the invariant is in one of the phases. -/
theorem Machine.State.Inv.phase (hbusy : s.busy = true) : s.Phase := by
  rcases busy_cases hbusy with hst | hst | hst | hst | hst | hst
  · exact .setup hst (phase_zero hi.selector hst rfl)
  · exact .reset hst (phase_zero hi.selector hst rfl) (hi.directions hbusy (by rw [hst]; decide))
  · exact .waitInit hst (phase_zero hi.selector hst rfl)
      (hi.driven_high (by rw [State.afterReset, hst]; rfl) hbusy (by rw [hst]; decide)) (hi.initPolls hst)
  · cases hph : s.ph
    case false =>
      exact .framing hst hph (hi.driven_high (by rw [State.afterReset, hst, hph]; rfl) hbusy (by rw [hst]; decide))
        (hi.framing hst hph)
    case true =>
      exact .chunk hst hph (hi.driven_low (by rw [State.afterFraming, hst, hph]; rfl) hbusy (by rw [hst]; decide))
        (hi.chunkDue hst hph)
  · exact .waitDone hst
      (hi.driven_low (by rw [State.afterFraming, hst]; cases s.ph <;> rfl) hbusy (by rw [hst]; decide))
      (hi.shifted (.inl hst)) (hi.donePolls hst)
  · exact .completing hst (phase_zero hi.selector hst rfl)
      (hi.driven_low (by rw [State.afterFraming, hst]; rfl) hbusy (by rw [hst]; decide)) (hi.shifted (.inr hst))
      (hi.startupDue hst)

end Inv

/-! ## The pins after a step -/

/-- A step that keeps the profile, the kind of attempt and the directions. -/
structure Machine.State.SameDirections (s t : State) : Prop where
  profile : t.profile = s.profile
  ro : t.ro = s.ro
  ctrl : t.banks.dirCtrl = s.banks.dirCtrl
  data : t.banks.dirData = s.banks.dirData

section Pins
variable {s t : State} {v : Word}

theorem Machine.State.DirectionsSet.of_same (h : s.DirectionsSet) (hsame : s.SameDirections t) : t.DirectionsSet where
  outputs g hg := by rw [State.isOutput, hsame.ctrl, hsame.profile]; exact h.outputs g hg
  inputs g hg := by rw [State.isOutput, hsame.ctrl, hsame.profile]; exact h.inputs g hg
  bus j hj := by rw [hsame.data]; exact h.bus j (hsame.profile ▸ hj)

/-- A step that leaves the control latch on the pins of the four outputs keeps their levels. -/
theorem Machine.State.Driven.of_same {level : Bool} (h : s.Driven level) (hsame : s.SameDirections t)
    (hlevel : ∀ g, g = .program ∨ g = .csi ∨ g = .rdwr ∨ g = .clock → t.level g = s.level g) : t.Driven level :=
  ⟨hsame.ro.trans h.full, h.directions.of_same hsame, (hlevel _ (by simp)).trans h.program,
    (hlevel _ (by simp)).trans h.clock, (hlevel _ (by simp)).trans h.csi, (hlevel _ (by simp)).trans h.rdwr⟩

/-- The RESET step leaves the four outputs at 1 (42_sequencer.md R98). -/
theorem driven_afterReset (hfull : s.ro = false) (hdir : s.DirectionsSet) (hsame : s.SameDirections t)
    (hout : t.banks.outCtrl = v)
    (hlatch : ∀ j, s.banks.dirCtrl.getLsbD (rbit j) = true → v.getLsbD (rbit j) =
      if j = s.profile.pinProgram ∨ j = s.profile.pinClock ∨ j = s.profile.pinRdwr ∨ j = s.profile.pinCsi then true
      else s.banks.outCtrl.getLsbD (rbit j)) : t.Driven true := by
  have hlevel (g : Signal) (hg : g = .program ∨ g = .csi ∨ g = .rdwr ∨ g = .clock) : t.level g = true := by
    rw [State.level, hout, hsame.profile, hlatch _ (hdir.outputs g hg)]
    rcases hg with rfl | rfl | rfl | rfl <;> simp [Profile.pin]
  exact ⟨hsame.ro.trans hfull, hdir.of_same hsame, hlevel _ (by simp), hlevel _ (by simp), hlevel _ (by simp),
    hlevel _ (by simp)⟩

/-- The framing leaves CSI and RDWR at 0, PROGRAM and CLOCK at 1 (42_sequencer.md R102). -/
theorem driven_afterFraming (hwf : s.profile.wellFormed s.params = true) (h : s.Driven true) (hsame : s.SameDirections t)
    (hout : t.banks.outCtrl = v)
    (hlatch : ∀ j, s.banks.dirCtrl.getLsbD (rbit j) = true → v.getLsbD (rbit j) =
      if j = s.profile.pinClock then true
      else if j = s.profile.pinCsi ∨ j = s.profile.pinRdwr then false
      else s.banks.outCtrl.getLsbD (rbit j)) : t.Driven false := by
  obtain ⟨hpc, hpr, hpk, -, hck, hrk⟩ := outputs_distinct hwf
  have hlevel (g : Signal) (hg : g = .program ∨ g = .csi ∨ g = .rdwr ∨ g = .clock) : t.level g =
      if s.profile.pin g = s.profile.pinClock then true
      else if s.profile.pin g = s.profile.pinCsi ∨ s.profile.pin g = s.profile.pinRdwr then false else s.level g := by
    rw [State.level, hout, hsame.profile, hlatch _ (h.directions.outputs g hg), State.level]
  refine ⟨hsame.ro.trans h.full, h.directions.of_same hsame, (hlevel .program (by simp)).trans ?_,
    (hlevel .clock (by simp)).trans ?_, (hlevel .csi (by simp)).trans ?_, (hlevel .rdwr (by simp)).trans ?_⟩
  · simp [Profile.pin, hpk, hpc, hpr, h.program]
  · simp [Profile.pin]
  · simp [Profile.pin, hck]
  · simp [Profile.pin, hrk]

/-- A pulse of CLOCK, which is at 1, keeps the four levels (42_sequencer.md R103, R108). -/
theorem driven_afterPulse {level : Bool} (h : s.Driven level) (hsame : s.SameDirections t) (hout : t.banks.outCtrl = v)
    (hlatch : ∀ j, s.banks.dirCtrl.getLsbD (rbit j) = true → v.getLsbD (rbit j) =
      if j = s.profile.pinClock then true else s.banks.outCtrl.getLsbD (rbit j)) : t.Driven level := by
  refine h.of_same hsame fun g hg => ?_
  have hclock : s.banks.outCtrl.getLsbD (rbit s.profile.pinClock) = true := h.clock
  rw [State.level, hout, hsame.profile, hlatch _ (h.directions.outputs g hg), State.level]
  split
  · next hg => rw [hg, hclock]
  · rfl

end Pins

/-! ## The rows keep the invariant -/

/-- What a step of the sequencer does to the fields every phase has. -/
theorem Machine.State.Attempting.next {s : State} (h : s.Attempting) (k : Banks) (tr : List Entry) (e : Env)
    (st : BitVec 4) (ph : Bool) (poll : Word) {idx : Word} {scnt : BitVec 4} (hidx : idx.toNat ≤ s.n.toNat)
    (hscnt : scnt.toNat ≤ Config.startupClocks.toNat) :
    { s with
      banks := k, trace := tr, env := e, st := st, ph := ph, poll := poll, idx := idx, scnt := scnt }.Attempting :=
  { h with idxBound := hidx, startup := hscnt }

/-- The end of an attempt, in DONE or in FAILED with its reason, meets the invariant. -/
theorem Machine.State.Attempting.ended {s : State} (h : s.Attempting) (k : Banks) (tr : List Entry) (e : Env)
    (poll : Word) {scnt : BitVec 4} {st : BitVec 4} {ph : Bool} {why : Reason} (hph : ph = false)
    (hscnt : scnt.toNat ≤ Config.startupClocks.toNat)
    (hend : (st = stDone ∧ why = .none) ∨ (st = stFailed ∧ why ≠ .none)) :
    { s with banks := k, trace := tr, env := e, st := st, ph := ph, reason := why, poll := poll, scnt := scnt }.Inv := by
  refine inv_of_not_busy (hend.imp And.left And.left |> .inr) hph h.params h.noFault (fun _ => h.profile) h.length
    h.idxBound hscnt ?_ h.heldOps
  rcases hend with ⟨rfl, rfl⟩ | ⟨rfl, hwhy⟩
  · exact ⟨nofun, fun hne => absurd rfl hne⟩
  · exact ⟨fun _ => hwhy, fun _ => rfl⟩

/-- Each row of the transition table keeps the invariant. -/
theorem row_inv {s t : State} (hi : s.Inv) (hbusy : s.busy = true) (h : Row s t) : t.Inv := by
  have ha := hi.attempting hbusy
  have hidx := ha.idxBound
  have hscnt := ha.startup
  have hhigh (hr : s.afterReset = true) (hne : s.st ≠ stSetup) := hi.driven_high hr hbusy hne
  have hlow (hf : s.afterFraming = true) (hne : s.st ≠ stSetup) := hi.driven_low hf hbusy hne
  cases h
  case setup k es hst hlen hctrl hdata =>
    exact inv_of_phase (ha.next k _ _ _ _ _ hidx hscnt)
      (.reset rfl rfl (setup_directions ha.profile hctrl hdata rfl rfl))
  case resetOnly hph hro hlen => exact ha.ended _ _ _ _ hph hscnt (.inl ⟨rfl, rfl⟩)
  case resetZeroBound => exact ha.ended _ _ _ _ rfl hscnt (.inr ⟨rfl, nofun⟩)
  case resetWaits v es e hst hph hro hiwb hlen hreads hlatch =>
    have hdir := hi.directions hbusy (by rw [hst]; decide)
    have hpos : 0 < s.iwb.toNat := Nat.pos_of_ne_zero fun h => hiwb (BitVec.eq_of_toNat_eq h)
    exact inv_of_phase (ha.next _ _ _ _ _ _ hidx hscnt)
      (.waitInit rfl hph (driven_afterReset hro hdir ⟨rfl, rfl, rfl, rfl⟩ rfl hlatch) hpos)
  case initReady hst hpin hlen =>
    exact inv_of_phase (ha.next _ _ _ _ _ _ (Nat.zero_le _) hscnt)
      (.framing rfl rfl ((hhigh (by rw [State.afterReset, hst]; rfl) (by rw [hst]; decide)).of_same
        ⟨rfl, rfl, rfl, rfl⟩ fun _ _ => rfl) rfl)
  case initTimeout => exact ha.ended _ _ _ _ rfl hscnt (.inr ⟨rfl, nofun⟩)
  case initWaits hst hpin hpoll hlen hreads =>
    exact inv_of_phase (ha.next _ _ _ _ _ _ hidx hscnt)
      (.waitInit hst (phase_zero hi.selector hst rfl)
        ((hhigh (by rw [State.afterReset, hst]; rfl) (by rw [hst]; decide)).of_same ⟨rfl, rfl, rfl, rfl⟩ fun _ _ => rfl)
        (poll_lt (hi.initPolls hst) hpoll))
  case nothingToShift hst hph hn hlen hlatch =>
    have hpins := hhigh (by rw [State.afterReset, hst, hph]; rfl) (by rw [hst]; decide)
    exact inv_of_phase (ha.next _ _ _ _ _ _ hidx hscnt)
      (.waitDone rfl (driven_afterFraming ha.profile hpins ⟨rfl, rfl, rfl, rfl⟩ rfl hlatch)
        ((hi.framing hst hph).trans hn.symm) nofun)
  case chunksBegin hst hph hn hlen hlatch =>
    have hpins := hhigh (by rw [State.afterReset, hst, hph]; rfl) (by rw [hst]; decide)
    have hzero := hi.framing hst hph
    have hpos : 0 < s.n.toNat := Nat.pos_of_ne_zero fun h => hn (BitVec.eq_of_toNat_eq h)
    exact inv_of_phase (ha.next _ _ _ _ _ _ hidx hscnt)
      (.chunk hst rfl (driven_afterFraming ha.profile hpins ⟨rfl, rfl, rfl, rfl⟩ rfl hlatch)
        ⟨hzero ▸ hpos, fun _ => by rw [hzero]; rfl⟩)
  case lastChunk hst hph hlast hlen hlatch =>
    have hpins := hlow (by rw [State.afterFraming, hst, hph]; rfl) (by rw [hst]; decide)
    exact inv_of_phase (ha.next _ _ _ _ _ _ (chunk_inside hi hst hph) hscnt)
      (.waitDone rfl (driven_afterPulse hpins ⟨rfl, rfl, rfl, rfl⟩ rfl hlatch) hlast nofun)
  case moreChunks hst hph hmore hlen hlatch =>
    have hpins := hlow (by rw [State.afterFraming, hst, hph]; rfl) (by rw [hst]; decide)
    have hinside := chunk_inside hi hst hph
    have heven (hw : s.w = true) : (s.idx + s.busWidth).toNat % 2 = 0 := by
      have := (hi.chunkDue hst hph).2 hw
      rw [BitVec.toNat_add, busWidth_toNat, hw]
      simp
      omega
    exact inv_of_phase (ha.next _ _ _ _ _ _ hinside hscnt)
      (.chunk hst hph (driven_afterPulse hpins ⟨rfl, rfl, rfl, rfl⟩ rfl hlatch)
        ⟨lt_of_le_of_ne hinside (mt BitVec.eq_of_toNat_eq hmore), heven⟩)
  case rejected => exact ha.ended _ _ _ _ rfl hscnt (.inr ⟨rfl, nofun⟩)
  case doneZeroBound => exact ha.ended _ _ _ _ rfl hscnt (.inr ⟨rfl, nofun⟩)
  case pollsBegin hst hph hpin hdwb hlen hreads =>
    have hpins := hlow (by rw [State.afterFraming, hst]; rfl) (by rw [hst]; decide)
    have hpos : 0 < s.dwb.toNat := Nat.pos_of_ne_zero fun h => hdwb (BitVec.eq_of_toNat_eq h)
    exact inv_of_phase (ha.next _ _ _ _ _ _ hidx hscnt)
      (.waitDone hst (hpins.of_same ⟨rfl, rfl, rfl, rfl⟩ fun _ _ => rfl) (hi.shifted (.inl hst)) fun _ => hpos)
  case doneHigh hst hph hpin hlen =>
    have hpins := hlow (by rw [State.afterFraming, hst, hph]; rfl) (by rw [hst]; decide)
    exact inv_of_phase (ha.next _ _ _ _ _ _ hidx (Nat.zero_le _))
      (.completing rfl rfl (hpins.of_same ⟨rfl, rfl, rfl, rfl⟩ fun _ _ => rfl) (hi.shifted (.inl hst))
        (show (0#4).toNat < 8 by decide))
  case doneTimeout => exact ha.ended _ _ _ _ rfl hscnt (.inr ⟨rfl, nofun⟩)
  case doneWaits hst hph hpin hpoll hlen hreads =>
    have hpins := hlow (by rw [State.afterFraming, hst]; rfl) (by rw [hst]; decide)
    exact inv_of_phase (ha.next _ _ _ _ _ _ hidx hscnt)
      (.waitDone hst (hpins.of_same ⟨rfl, rfl, rfl, rfl⟩ fun _ _ => rfl) (hi.shifted (.inl hst))
        fun _ => poll_lt (hi.donePolls hst hph) hpoll)
  case lastPulse hst hph hlast hlen =>
    exact ha.ended _ _ _ _ hph (by rw [hlast]; decide) (.inl ⟨rfl, rfl⟩)
  case morePulses hst hph hmore hlen hlatch =>
    have hpins := hlow (by rw [State.afterFraming, hst]; rfl) (by rw [hst]; decide)
    have hlt := pulse_counts hi hst hmore
    exact inv_of_phase (ha.next _ _ _ _ _ _ hidx hlt.le)
      (.completing hst hph (driven_afterPulse hpins ⟨rfl, rfl, rfl, rfl⟩ rfl hlatch) (hi.shifted (.inr hst)) hlt)

/-- A sequencer that is not busy takes no step. -/
theorem seqStep_not_busy {s : State} (hbusy : s.busy = false) : seqStep s = .next s := by
  have hidle : ∀ (ph : Bool) (st : BitVec 4), busyCode st = false →
      decodeSelector (BitVec.ofBool ph ++ st) = none ∨ decodeSelector (BitVec.ofBool ph ++ st) = some .stepIdle ∨
        decodeSelector (BitVec.ofBool ph ++ st) = some .stepDone ∨
        decodeSelector (BitVec.ofBool ph ++ st) = some .stepFailed := by decide
  unfold seqStep
  rcases hidle s.ph s.st hbusy with h | h | h | h <;> rw [State.selector, h] <;> rfl

theorem seqStep_inv {s t : State} (hi : s.Inv) (h : seqStep s = .next t) : t.Inv := by
  cases hbusy : s.busy
  case false =>
    cases (seqStep_not_busy hbusy).symm.trans h
    exact hi
  case true => exact row_inv hi hbusy (seqStep_row hi.selector hbusy h)

end Sys2Proof
end

section
/-! PROOFS. Every move keeps the invariant: a HOST's operations, which meet it while not busy, the releases, the runs and
the injections (10_state.md sections 3 and 4, 43_host_commands.md section 1). -/

namespace Sys2Proof

open Machine

/-! ## Moves that leave the block alone -/

/-- The invariant does not speak of the environment, the HOST agents, the responses or the refusal marks. -/
theorem Machine.State.Inv.agents {s : State} (hi : s.Inv) (env : Env) (hosts : List HostAgent) (lock : Option Nat)
    (refused : Bool) (why : Option RefuseReason) (resp : Option Word) {held : List HeldOp}
    (hheld : ∀ h ∈ held, hostOperation h.instr = true ∧ h.instr ≠ .cmdStatus) :
    { s with env := env, hosts := hosts, runLock := lock, refused := refused, refusedFor := why, resp := resp,
             held := held }.Inv :=
  { hi with
    directions := fun hbusy hne => (hi.directions hbusy hne).of_same ⟨rfl, rfl, rfl, rfl⟩
    levels := ⟨hi.levels.program, hi.levels.clock, hi.levels.high, hi.levels.low⟩
    heldOps := hheld }

theorem Machine.State.Inv.ready {s : State} (hi : s.Inv) : s.ready.Inv := by
  rw [ready_of_isSome hi.selector]
  refine hi.agents _ _ _ _ _ _ fun o ho => ?_
  obtain ⟨o', ho', -, hinstr⟩ := mem_waiting ho
  rw [hinstr]
  exact hi.heldOps o' ho'

theorem runHost_inv {s : State} (hi : s.Inv) (k : Nat) : (s.runHost k).Inv := by
  obtain ⟨env, hosts, lock, hrun⟩ := runHost_frame k s
  rw [hrun]
  exact hi.agents _ _ _ _ _ _ hi.heldOps

theorem deliver_inv {s : State} (hi : s.Inv) (k : Nat) (i : Instr) : (s.deliver k i).Inv := by
  rw [deliver_eq]
  exact hi.agents _ _ _ _ _ _ hi.heldOps

/-- An injection touches the pins of INIT and DONE only. -/
theorem inject_bit (s : State) (init done : Option Bool) {j : BitVec 5} (hinit : j ≠ s.profile.pinInit)
    (hdone : j ≠ s.profile.pinDone) :
    (s.inject init done).banks.outCtrl.getLsbD (rbit j) = s.banks.outCtrl.getLsbD (rbit j) := by
  unfold State.inject
  split
  · rfl
  · exact (injectPin_bit _ done hdone).trans (injectPin_bit _ init hinit)

/-- An injection writes the control latch alone. -/
theorem inject_latch (s : State) (init done : Option Bool) :
    ∃ v, s.inject init done = { s with banks := { s.banks with outCtrl := v } } := by
  unfold State.inject
  split
  · exact ⟨s.banks.outCtrl, rfl⟩
  · exact ⟨_, rfl⟩

/-- An attempt that has been reset is busy. -/
theorem busy_of_driven {s : State} (h : s.afterReset = true ∨ s.afterFraming = true) : s.busy = true := by
  by_contra hidle
  simp only [State.busy, busyCode, Bool.or_eq_true, beq_iff_eq, not_or] at hidle
  simp [State.afterReset, State.afterFraming, hidle] at h

/-- An injection keeps the invariant: INIT and DONE are none of the four outputs. -/
theorem inject_inv {s : State} (hi : s.Inv) (init done : Option Bool) : (s.inject init done).Inv := by
  have hbit := @inject_bit s init done
  obtain ⟨v, hv⟩ := inject_latch s init done
  rw [hv] at hbit ⊢
  have hlevel (hafter : s.afterReset = true ∨ s.afterFraming = true) (g : Signal)
      (hg : g = .program ∨ g = .csi ∨ g = .rdwr ∨ g = .clock) : v.getLsbD (rbit (s.profile.pin g)) = s.level g := by
    obtain ⟨h1, h2⟩ := inputs_distinct (hi.attempting (busy_of_driven hafter)).profile
    simp only [not_or] at h1 h2
    refine hbit ?_ ?_ <;> rcases hg with rfl | rfl | rfl | rfl <;> simp [Profile.pin, Ne.symm, h1, h2]
  exact { hi with
    directions := fun hbusy hne => (hi.directions hbusy hne).of_same ⟨rfl, rfl, rfl, rfl⟩
    levels :=
      { program := fun h => (hlevel h .program (by simp)).trans (hi.levels.program h)
        clock := fun h => (hlevel h .clock (by simp)).trans (hi.levels.clock h)
        high := fun h => ⟨(hlevel (.inl h) .csi (by simp)).trans (hi.levels.high h).1,
          (hlevel (.inl h) .rdwr (by simp)).trans (hi.levels.high h).2⟩
        low := fun h => ⟨(hlevel (.inr h) .csi (by simp)).trans (hi.levels.low h).1,
          (hlevel (.inr h) .rdwr (by simp)).trans (hi.levels.low h).2⟩ } }

/-! ## Operations of HOST -/

/-- A port operation writes the banks, `WW`, `RV`, the trace, the draws, the response and the refusal marks alone
(41_port_primitives.md R82). -/
theorem portOperation_frame {i : Instr} {s t : State} (hop : portOperation i = true) (h : exec i s = .next t) :
    ∃ banks ww rv trace env resp refused why, t = { s with
      banks := banks, ww := ww, rv := rv, trace := trace, env := env, resp := resp, refused := refused,
      refusedFor := why } := by
  cases i <;> cases hop
  case bswap | ldw =>
    cases h
    exact ⟨_, _, _, _, _, _, _, _, rfl⟩
  case splice =>
    cases h
    split <;> exact ⟨_, _, _, _, _, _, _, _, rfl⟩
  case setbit | getbit | pulse | setdir | rdreg | wrreg =>
    cases h
    unfold State.withProfile
    split <;> exact ⟨_, _, _, _, _, _, _, _, rfl⟩

/-- CMD.CONFIG is refused, or loads a well-formed profile (43_host_commands.md R118, R119). -/
theorem cmdConfig_next {pinw geow iwb dwb : Word} {cb db : Nat} {s t : State}
    (h : exec (.cmdConfig pinw geow cb db iwb dwb) s = .next t) :
    t = s.refuse .badProfile ∨ ((profileOf pinw geow cb db).wellFormed s.params = true ∧
      t = { s with profile := profileOf pinw geow cb db, iwb := iwb, dwb := dwb, cfgv := true }.respond 0#32) := by
  cases h
  split
  · next hok => exact .inr ⟨(Bool.and_eq_true_iff.mp hok).2, rfl⟩
  · exact .inl rfl

/-- An accepted CMD.PROGRAM has met its conditions (43_host_commands.md R121). -/
theorem cmdProgram_conditions {v : Bool} {pay : List Byte} {s t : State} (h : exec (.cmdProgram v pay) s = .next t) :
    (∃ why, t = s.refuse why) ∨
    (s.cfgv = true ∧ pay.length < 2 ^ 32 ∧ (v = true → s.profile.dataWidthBits ≠ 8#5 ∧ pay.length % 2 = 0) ∧
      t = (({ s with w := v, pay := pay, n := BitVec.ofNat 32 pay.length }.beginAttempt false).respond 0#32)) := by
  simp only [exec, execCmdProgram, State.withProfile] at h
  split at h
  · cases h
  · next hlen =>
    cases h
    split
    · next hcfgv =>
      split
      · exact .inl ⟨_, rfl⟩
      · next hwidth =>
        split
        · exact .inl ⟨_, rfl⟩
        · next hodd =>
          refine .inr ⟨hcfgv, Nat.lt_of_not_le hlen, ?_, rfl⟩
          rintro rfl
          simpa using And.intro hwidth hodd
    · exact .inl ⟨_, rfl⟩

/-- An accepted CMD.RESET_ONLY has met its condition (43_host_commands.md R122). -/
theorem cmdResetOnly_conditions {s t : State} (h : exec .cmdResetOnly s = .next t) :
    t = s.refuse .noProfile ∨ (s.cfgv = true ∧ t = (s.beginAttempt true).respond 0#32) := by
  cases h
  cases hc : s.cfgv
  case false => exact .inl (withProfile_false _ hc)
  case true => exact .inr ⟨rfl, withProfile_true _ hc⟩

section Idle
variable {s t : State} (hi : s.Inv) (hbusy : s.busy = false)
include hi hbusy

/-- A state that is not busy is in IDLE, DONE or FAILED, in phase 0. -/
theorem Machine.State.Inv.idle : (s.st = stIdle ∨ s.st = stDone ∨ s.st = stFailed) ∧ s.ph = false := by
  have hne (a : BitVec 4) (ha : busyCode a = true) : s.st ≠ a := fun h => by rw [State.busy, h, ha] at hbusy; cases hbusy
  rcases selector_cases s hi.selector with
    ⟨h, hph⟩ | ⟨h, -⟩ | ⟨h, -⟩ | ⟨h, -⟩ | h | h | ⟨h, -⟩ | ⟨h, hph⟩ | ⟨h, hph⟩
  · exact ⟨.inl h, hph⟩
  · exact absurd h (hne _ rfl)
  · exact absurd h (hne _ rfl)
  · exact absurd h (hne _ rfl)
  · exact absurd h (hne _ rfl)
  · exact absurd h (hne _ rfl)
  · exact absurd h (hne _ rfl)
  · exact ⟨.inr (.inl h), hph⟩
  · exact ⟨.inr (.inr h), hph⟩

/-- While not busy the invariant does not speak of the banks, the working registers or the wait bounds, and of the profile
only while `CFGV` is set. -/
theorem Machine.State.Inv.whileIdle (banks : Banks) (p : Profile) (c : Bool) (hp : c = true → p.wellFormed s.params = true)
    (iwb dwb ww : Word) (rv : Bool) (trace : List Entry) (env : Env) (resp : Option Word) (refused : Bool)
    (why : Option RefuseReason) :
    { s with banks := banks, profile := p, cfgv := c, iwb := iwb, dwb := dwb, ww := ww, rv := rv, trace := trace,
             env := env, resp := resp, refused := refused, refusedFor := why }.Inv :=
  inv_of_not_busy (hi.idle hbusy).1 (hi.idle hbusy).2 hi.params hi.noFault hp hi.length hi.idxBound hi.startup hi.reason
    hi.heldOps

omit hbusy in
/-- The start of an attempt under a profile meets the invariant (43_host_commands.md R120, R122). -/
theorem beginAttempt_inv (hcfgv : s.cfgv = true) (ro w : Bool) (pay : List Byte) (n : Word)
    (hlen : n.toNat = pay.length)
    (hw : ro = false → w = true → s.profile.dataWidthBits = 16#5 ∧ pay.length % 2 = 0) :
    (({ s with w := w, pay := pay, n := n }.beginAttempt ro).respond 0#32).Inv :=
  inv_of_phase ⟨hi.params, hi.noFault, hcfgv, hi.profile hcfgv, hlen, hw, Nat.zero_le _, Nat.zero_le _, rfl, hi.heldOps⟩
    (.setup rfl rfl)

theorem exec_inv {i : Instr} (hop : hostOperation i = true) (h : exec i s = .next t) : t.Inv := by
  have hkeep := hi.whileIdle hbusy
  cases hport : portOperation i
  case true =>
    obtain ⟨_, _, _, _, _, _, _, _, rfl⟩ := portOperation_frame hport h
    exact hkeep _ _ _ hi.profile _ _ _ _ _ _ _ _ _
  case false =>
    cases i <;> cases hop <;> cases hport
    case cmdConfig =>
      rcases cmdConfig_next h with rfl | ⟨hwf, rfl⟩
      · exact hkeep _ _ _ hi.profile _ _ _ _ _ _ _ _ _
      · exact hkeep _ _ _ (fun _ => hwf) _ _ _ _ _ _ _ _ _
    case cmdProgram v pay =>
      rcases cmdProgram_conditions h with ⟨why, rfl⟩ | ⟨hcfgv, hlen, hw, rfl⟩
      · exact hkeep _ _ _ hi.profile _ _ _ _ _ _ _ _ _
      · refine beginAttempt_inv hi hcfgv false v pay _ (by simpa using hlen) fun _ hv => ⟨?_, (hw hv).2⟩
        exact (wf_bus (hi.profile hcfgv)).1.resolve_left (hw hv).1
    case cmdResetOnly =>
      rcases cmdResetOnly_conditions h with rfl | ⟨hcfgv, rfl⟩
      · exact hkeep _ _ _ hi.profile _ _ _ _ _ _ _ _ _
      · exact beginAttempt_inv hi hcfgv true s.w s.pay s.n hi.length nofun
    case cmdStatus =>
      cases h
      exact hkeep _ _ _ hi.profile _ _ _ _ _ _ _ _ _

end Idle

/-! ## Every move -/

section Moves
variable {k : Nat} {s t : State} (hi : s.Inv)
include hi

theorem perform_inv {i : Instr} (hop : hostOperation i = true) (hfree : s.busy = false ∨ i = .cmdStatus)
    (h : perform k i s = .next t) : t.Inv := by
  obtain ⟨u, hu, rfl⟩ := perform_next h
  refine deliver_inv ?_ k i
  rcases hfree with hbusy | rfl
  · exact exec_inv hi hbusy hop hu
  · cases hu
    exact hi.agents _ _ _ _ _ _ hi.heldOps

theorem accept_inv {i : Instr} (hop : hostOperation i = true) (h : accept k i s = .next t) : t.Inv := by
  rcases accept_next h with ⟨-, hne, rfl⟩ | ⟨hfree, hperform⟩
  · refine hi.agents _ _ _ _ _ _ fun o ho => ?_
    rcases List.mem_append.mp ho with ho | ho
    · exact hi.heldOps o ho
    · cases List.mem_singleton.mp ho
      exact ⟨hop, hne⟩
  · exact perform_inv hi hop hfree hperform

theorem arrive_inv (h : arrive k s = .next t) : t.Inv := by
  rcases arrive_next h with rfl | ⟨hosts, rfl⟩ | ⟨i, hosts, hop, haccept⟩
  · exact hi
  · exact hi.agents _ _ _ _ _ _ hi.heldOps
  · exact accept_inv (hi.agents s.env hosts s.runLock s.refused s.refusedFor s.resp hi.heldOps) hop haccept

theorem release_inv (h : release k s = .next t) : t.Inv := by
  rcases release_next h with ⟨rfl, -⟩ | ⟨hidle, before, o, after, hsplit, -, hperform⟩
  · exact hi
  · have hop := hi.heldOps o (by simp [hsplit])
    have hrest : ∀ x ∈ before ++ after, hostOperation x.instr = true ∧ x.instr ≠ .cmdStatus := by
      intro x hx
      exact hi.heldOps x (by rw [hsplit]; rcases List.mem_append.mp hx with hx | hx <;> simp [hx])
    exact perform_inv (hi.agents s.env s.hosts s.runLock s.refused s.refusedFor s.resp hrest) hop.1 (.inl hidle) hperform

theorem runMove_inv {m : Move} (h : runMove m s = .next t) : t.Inv := by
  cases m
  case host k => exact arrive_inv hi h
  case seq => exact seqStep_inv hi h
  case release k => exact release_inv hi h
  case run k =>
    cases h
    exact runHost_inv hi k
  case inject init done =>
    cases h
    exact inject_inv hi init done

end Moves

/-- Settles O49: the invariant holds of the state the move acts on (`Inv.ready`), and each agent's move keeps it. -/
theorem everyStepKeepsTheInvariant : Obligations.EveryStepKeepsTheInvariant :=
  fun _ _ hi h => runMove_inv hi.ready h

/-- Settles O50: power-on is not busy and has loaded nothing. -/
theorem powerOnMeetsTheInvariant : Obligations.PowerOnMeetsTheInvariant :=
  fun _ hparams => inv_of_not_busy (.inl rfl) rfl hparams rfl nofun rfl le_rfl (Nat.zero_le _) ⟨nofun, absurd rfl⟩ nofun

/-- Settles O17: what a port operation writes is listed by `portOperation_frame`; of the environment it takes draws
alone. -/
theorem portOperationsLeaveTheSequencer : Obligations.PortOperationsLeaveTheSequencer := by
  intro i s t hop h
  obtain ⟨-, -, -, -, hbackend, hsched, hslack⟩ := exec_agents h
  obtain ⟨_, _, _, _, _, _, _, _, rfl⟩ := portOperation_frame hop h
  exact ⟨rfl, hbackend, hsched, hslack⟩

/-- Settles O29: what a sequencer step writes is listed by `execStep_frame`; of the environment it takes draws alone. -/
theorem sequencerStepFrame : Obligations.SequencerStepFrame := by
  intro i s t hstep h
  obtain ⟨-, -, -, -, hbackend, hsched, hslack⟩ := exec_agents h
  obtain ⟨_, _, _, _, _, _, _, _, _, rfl⟩ := execStep_frame hstep h
  exact ⟨rfl, hbackend, hsched, hslack⟩

end Sys2Proof
end

section
/-! PROOFS. Attempts as runs of the sequencer: how they end, how many steps they take at most, and their transactions
(42_sequencer.md section 3, 60_exceptions.md R127). -/

namespace Sys2Proof

open Machine

/-! ## The end of an attempt -/

/-- Settles O31: each row into FAILED names its reason and has its counter at the bound; no other row leads there. -/
theorem failureRecordsItsCause : Obligations.FailureRecordsItsCause := by
  intro s t hi hbusy h hfailed
  cases seqStep_row hi.selector hbusy h
  case resetZeroBound hst hro hiwb hlen => exact ⟨rfl, rfl, .inl ⟨rfl, hiwb.symm, .inl hst⟩⟩
  case initTimeout hst hpin hpoll hlen => exact ⟨rfl, rfl, .inl ⟨rfl, hpoll, .inr hst⟩⟩
  case rejected hst hph hpin hlen => exact ⟨rfl, rfl, .inr (.inl ⟨rfl, hi.shifted (.inl hst), hst, hph⟩)⟩
  case doneZeroBound hst hph hpin hdwb hlen => exact ⟨rfl, rfl, .inr (.inr ⟨rfl, hdwb.symm, hst⟩)⟩
  case doneTimeout hst hph hpin hpoll hlen => exact ⟨rfl, rfl, .inr (.inr ⟨rfl, hpoll, hst⟩)⟩
  case initWaits hst _ _ _ _ | chunksBegin hst _ _ _ _ | moreChunks hst _ _ _ _ | pollsBegin hst _ _ _ _ _
      | doneWaits hst _ _ _ _ _ | morePulses hst _ _ _ _ => cases hst.symm.trans hfailed
  all_goals cases hfailed

/-! ## Runs -/

theorem seqRun_succ {s t : State} (h : seqStep s = .next t) (k : Nat) : seqRun (k + 1) s = seqRun k t := by
  rw [seqRun, h]

theorem seqRun_one {s t : State} (h : seqStep s = .next t) : seqRun 1 s = .next t := seqRun_succ h 0

/-- A run that has begun with a step goes on from there. -/
theorem seqRun_cons {s t u : State} {k : Nat} (h : seqStep s = .next t) (hrun : seqRun k t = .next u) :
    seqRun (1 + k) s = .next u := by
  rw [Nat.add_comm, seqRun_succ h, hrun]

/-- SETUP leads to RESET with six transactions and no read of a data register. -/
theorem setup_step {s : State} (hi : s.Inv) (hst : s.st = stSetup) :
    ∃ t, seqStep s = .next t ∧ t.Inv ∧ t.st = stReset ∧ t.trace.length = s.trace.length + 6 ∧ t.env = s.env ∧
      t.ro = s.ro ∧ t.iwb = s.iwb ∧ t.profile = s.profile := by
  obtain ⟨k, es, hexec, hlen, -⟩ := stepSetup_spec s
  have h := (seqStep_of hst (phase_zero hi.selector hst rfl) rfl).trans hexec
  exact ⟨_, h, seqStep_inv hi h, rfl, by simp [hlen], rfl, rfl, rfl, rfl⟩

/-- RESET leads to DONE in a reset-only attempt, with eleven transactions. -/
theorem resetOnly_step {s : State} (hi : s.Inv) (hst : s.st = stReset) (hro : s.ro = true) :
    ∃ t, seqStep s = .next t ∧ t.st = stDone ∧ t.reason = .none ∧ t.trace.length = s.trace.length + 11 := by
  obtain ⟨v, es, e, hexec, hlen, -⟩ := stepReset_spec s
  rw [if_pos hro] at hexec
  have h := (seqStep_of hst (phase_zero hi.selector hst rfl) rfl).trans hexec
  exact ⟨_, h, rfl, rfl, by simp [hlen]⟩

/-- Settles O32: SETUP leads to RESET and that to DONE, with 6 and 11 transactions. -/
theorem resetOnlyTakesTwoSteps : Obligations.ResetOnlyTakesTwoSteps := by
  intro s hi hst hro
  obtain ⟨t, ht, hti, htst, htlen, -, htro, -⟩ := setup_step hi hst
  obtain ⟨u, hu, hust, hreason, hulen⟩ := resetOnly_step hti htst (htro.trans hro)
  exact ⟨t, u, seqRun_one ht, by rw [State.busy, htst]; rfl, (seqRun_succ ht 1).trans (seqRun_one hu), hust, hreason,
    by omega⟩

/-! ## Chunks -/

theorem busWidth_pos (s : State) : 0 < s.busWidth.toNat := by rw [busWidth_toNat]; split <;> decide

/-- The chunks of a full payload fill it (42_sequencer.md R104). -/
theorem chunks_mul_busWidth {s : State} (hi : s.Inv) (hbusy : s.busy = true) (hro : s.ro = false) :
    s.chunks * s.busWidth.toNat = s.n.toNat := by
  have heven := hi.twoBytes hbusy hro
  have hlen := hi.length
  rw [State.chunks, busWidth_toNat]
  split
  · next hw =>
    have := (heven hw).2
    omega
  · omega

/-- A chunk that is due moves `IDX` on by its bytes, without wrapping. -/
theorem idx_add_busWidth {s : State} (hi : s.Inv) (hst : s.st = stShifting) (hph : s.ph = true) :
    (s.idx + s.busWidth).toNat = s.idx.toNat + s.busWidth.toNat := by
  obtain ⟨hdue, heven⟩ := hi.chunkDue hst hph
  have hro := hi.full (.inr (by simp [State.afterFraming, hst, hph]))
  have hpay := hi.twoBytes (by rw [State.busy, hst]; rfl) hro
  have hlen := hi.length
  have hn := s.n.isLt
  rw [BitVec.toNat_add, busWidth_toNat]
  refine Nat.mod_eq_of_lt ?_
  split
  · next hw =>
    have := heven hw
    have := (hpay hw).2
    omega
  · omega

/-- The framing of a payload that is not empty leads to its first chunk. -/
theorem framing_step {s : State} (hi : s.Inv) (hst : s.st = stShifting) (hph : s.ph = false) (hn : 0 < s.n.toNat) :
    ∃ t, seqStep s = .next t ∧ t.Inv ∧ t.st = stShifting ∧ t.ph = true ∧ t.idx = 0#32 ∧ t.n = s.n ∧ t.w = s.w := by
  obtain ⟨v, es, e, hexec, -⟩ := stepShiftFrame_spec s
  rw [if_neg (word_ne_zero hn)] at hexec
  have h := (seqStep_of hst hph rfl).trans hexec
  exact ⟨_, h, seqStep_inv hi h, hst, rfl, hi.framing hst hph, rfl, rfl⟩

/-- A chunk step leads to the next chunk, or after the last one to WAIT_DONE. -/
theorem chunk_step {s : State} (hi : s.Inv) (hst : s.st = stShifting) (hph : s.ph = true) :
    ∃ t, seqStep s = .next t ∧ t.Inv ∧ t.idx.toNat = s.idx.toNat + s.busWidth.toNat ∧ t.n = s.n ∧ t.w = s.w ∧
      (t.idx = t.n → t.st = stWaitDone ∧ t.ph = false) ∧ (t.idx ≠ t.n → t.st = stShifting ∧ t.ph = true) := by
  obtain ⟨v, es, e, hexec, -⟩ := stepShiftChunk_spec s
  have hidx := idx_add_busWidth hi hst hph
  split at hexec
  · next hlast =>
    have h := (seqStep_of hst hph rfl).trans hexec
    exact ⟨_, h, seqStep_inv hi h, hidx, rfl, rfl, fun _ => ⟨rfl, rfl⟩, fun hne => absurd hlast hne⟩
  · next hmore =>
    have h := (seqStep_of hst hph rfl).trans hexec
    exact ⟨_, h, seqStep_inv hi h, hidx, rfl, rfl, fun he => absurd he hmore, fun _ => ⟨hst, hph⟩⟩

/-- From a chunk that is due, `k` steps put `k` chunks on the bus, if the payload has so many left. -/
theorem chunks_run (k : Nat) : ∀ {s : State}, s.Inv → s.st = stShifting → s.ph = true →
    s.idx.toNat + k * s.busWidth.toNat ≤ s.n.toNat →
    ∃ t, seqRun k s = .next t ∧ t.idx.toNat = s.idx.toNat + k * s.busWidth.toNat ∧
      (t.idx ≠ s.n → t.st = stShifting ∧ t.ph = true) ∧ (t.idx = s.n → t.st = stWaitDone ∧ t.ph = false) := by
  induction k with
  | zero =>
    intro s hi hst hph _
    have hdue := (hi.chunkDue hst hph).1
    exact ⟨s, rfl, by simp, fun _ => ⟨hst, hph⟩, fun he => by rw [he] at hdue; exact absurd hdue (lt_irrefl _)⟩
  | succ k ih =>
    intro s hi hst hph hleft
    obtain ⟨t, ht, hti, hidx, hn, hw, hlast, hmore⟩ := chunk_step hi hst hph
    have hbw : t.busWidth = s.busWidth := by rw [State.busWidth, hw, ← State.busWidth]
    have hpos := busWidth_pos s
    rw [Nat.succ_mul] at hleft ⊢
    cases k with
    | zero => exact ⟨t, seqRun_one ht, by omega, fun hne => hmore (hn ▸ hne), fun he => hlast (he.trans hn.symm)⟩
    | succ k =>
      have hne : t.idx ≠ t.n := fun he => by
        have := congrArg BitVec.toNat (he.trans hn)
        rw [Nat.succ_mul] at hleft
        omega
      obtain ⟨u, hu, huidx, humore, hulast⟩ := ih hti (hmore hne).1 (hmore hne).2 (by rw [hbw, hidx, hn]; omega)
      exact ⟨u, (seqRun_succ ht _).trans hu, by rw [huidx, hbw, hidx]; omega, hn ▸ humore, hn ▸ hulast⟩

/-- Settles O33: the framing leads to the first chunk, and each chunk step to the next (`chunks_run`). -/
theorem exactlyOneChunkStepPerChunk : Obligations.ExactlyOneChunkStepPerChunk := by
  intro s k hi hst hph hn hk
  have hro := hi.full (.inl (by rw [State.afterReset, hst, hph]; rfl))
  have hmul := chunks_mul_busWidth hi (by rw [State.busy, hst]; rfl) hro
  obtain ⟨t, ht, hti, htst, htph, hidx, htn, htw⟩ := framing_step hi hst hph hn
  have hbw : t.busWidth = s.busWidth := by rw [State.busWidth, htw, ← State.busWidth]
  have hzero : t.idx.toNat = 0 := by rw [hidx]; rfl
  have hle : k * s.busWidth.toNat ≤ s.n.toNat := hmul ▸ Nat.mul_le_mul_right _ hk
  obtain ⟨u, hu, huidx, hmore, hlast⟩ := chunks_run k hti htst htph (by rw [hzero, hbw, htn]; omega)
  rw [hbw, hzero, Nat.zero_add] at huidx
  rw [htn] at hmore hlast
  refine ⟨u, seqRun_cons ht hu, huidx, hmul, fun hlt => hmore fun he => ?_, fun he => hlast (BitVec.eq_of_toNat_eq ?_)⟩
  · have := Nat.mul_lt_mul_of_pos_right hlt (busWidth_pos s)
    rw [he] at huidx
    omega
  · rw [huidx, he, hmul]

end Sys2Proof
end

section
/-! PROOFS. Bounded waits and termination (42_sequencer.md R114, R115). -/

namespace Sys2Proof

open Machine

/-! ## Polls that read 0 -/

/-- `k` steps of the sequencer and not fewer end the attempt. -/
def Machine.State.BusyFor (s : State) (n : Nat) : Prop := ∀ k t, k < n → seqRun k s = .next t → t.busy = true

theorem Machine.State.BusyFor.cons {s t : State} {n : Nat} (hbusy : s.busy = true) (h : seqStep s = .next t)
    (ht : t.BusyFor n) : s.BusyFor (n + 1) := by
  intro k u hk hu
  cases k with
  | zero =>
    cases hu
    exact hbusy
  | succ k => exact ht k u (by omega) (by rwa [seqRun_succ h] at hu)

/-- A wait whose every poll fails lasts as long as its bound: `Waits s m` says that `m` polls are left. -/
theorem polls_run {Waits : State → Nat → Prop} {Ends : State → Prop}
    (hstep : ∀ s m, Waits s (m + 1) → s.busy = true ∧ ∃ t, seqStep s = .next t ∧ (m = 0 → Ends t) ∧
      (0 < m → Waits t m)) :
    ∀ m s, Waits s (m + 1) → s.BusyFor (m + 1) ∧ ∃ t, seqRun (m + 1) s = .next t ∧ Ends t := by
  intro m
  induction m with
  | zero =>
    intro s h
    obtain ⟨hbusy, t, ht, hend, -⟩ := hstep s 0 h
    exact ⟨.cons hbusy ht (fun k _ hk => absurd hk (Nat.not_lt_zero k)), t, seqRun_one ht, hend rfl⟩
  | succ m ih =>
    intro s h
    obtain ⟨hbusy, t, ht, -, hwait⟩ := hstep s (m + 1) h
    obtain ⟨hrest, u, hu, hend⟩ := ih t (hwait m.succ_pos)
    exact ⟨.cons hbusy ht hrest, u, (seqRun_succ ht _).trans hu, hend⟩

/-- On the real port TARGET's script holds the pin of an input at 0 for at least `m` reads. -/
structure Machine.State.HeldLow (s : State) (g : Signal) (m : Nat) : Prop where
  real : s.env.backend = .real
  script : m ≤ s.env.target.length
  low : ∀ v ∈ s.env.target, v.getLsbD (rbit (s.profile.pin g)) = false

/-- Reads leave the script of the later reads. -/
theorem Machine.State.HeldLow.reads {s t : State} {g : Signal} {m n : Nat} (h : s.HeldLow g (n + m))
    (hreads : s.env.Reads n t.env) (hprofile : t.profile = s.profile) : t.HeldLow g m where
  real := hreads.backend.trans h.real
  script := by
    have := h.script
    rw [hreads.target h.real, List.length_drop]
    omega
  low v hv := by
    rw [hreads.target h.real] at hv
    rw [hprofile]
    exact h.low v (List.mem_of_mem_drop hv)

/-- On the real port a scripted read of an input pin gives the scripted level (10_state.md R17). -/
theorem getBit_script {s : State} {g : Signal} {v : Word} {vs : List Word} (hreal : s.env.backend = .real)
    (hin : s.isOutput g = false) (hscript : s.env.target = v :: vs) :
    s.getBit .ctrl (s.profile.pin g) = v.getLsbD (rbit (s.profile.pin g)) := by
  rw [getBit_raw, rawRead_dat_input s .ctrl (rbit_lt _) hreal hin, Env.pins, hscript]

theorem Machine.State.HeldLow.getBit {s : State} {g : Signal} {m : Nat} (h : s.HeldLow g (m + 1))
    (hin : s.isOutput g = false) : s.getBit .ctrl (s.profile.pin g) = false := by
  have hlen := h.script
  cases hscript : s.env.target with
  | nil =>
    rw [hscript] at hlen
    cases hlen
  | cons v vs => rw [getBit_script h.real hin hscript, h.low v (by simp [hscript])]

/-! ## INIT is never ready -/

/-- A poll of INIT that reads 0: the last one ends the attempt, any other one waits on. -/
theorem initPoll_step {s : State} (hi : s.Inv) (hst : s.st = stWaitInit)
    (hpin : s.getBit .ctrl s.profile.pinInit = false) :
    ∃ t, seqStep s = .next t ∧ t.Inv ∧ t.poll.toNat = s.poll.toNat + 1 ∧ t.iwb = s.iwb ∧ t.profile = s.profile ∧
      t.trace.length = s.trace.length + 1 ∧ s.env.Reads 1 t.env ∧
      (t.poll = t.iwb → t.st = stFailed ∧ t.reason = .initTimeout) ∧ (t.poll ≠ t.iwb → t.st = stWaitInit) := by
  obtain ⟨es, e, hexec, hlen, hreads⟩ := stepWaitInit_spec s
  have hpoll := toNat_add_one (hi.initPolls hst)
  rw [if_neg (by simp [hpin])] at hexec
  split at hexec
  · next hlast =>
    have h := (seqStep_of hst (phase_zero hi.selector hst rfl) rfl).trans hexec
    exact ⟨_, h, seqStep_inv hi h, hpoll, rfl, rfl, by simp [hlen], hreads, fun _ => ⟨rfl, rfl⟩, absurd hlast⟩
  · next hmore =>
    have h := (seqStep_of hst (phase_zero hi.selector hst rfl) rfl).trans hexec
    exact ⟨_, h, seqStep_inv hi h, hpoll, rfl, rfl, by simp [hlen], hreads, fun he => absurd he hmore, fun _ => hst⟩

/-- In WAIT_INIT with `m` polls left, all of which will read 0. -/
structure Machine.State.InitWaits (bound : Word) (len : Nat) (s : State) (m : Nat) : Prop where
  inv : s.Inv
  st : s.st = stWaitInit
  low : s.HeldLow .init m
  polls : s.poll.toNat + m = bound.toNat
  bound : s.iwb = bound
  trace : s.trace.length + m = len

theorem initWaits_step {bound : Word} {len : Nat} (s : State) (m : Nat) (h : s.InitWaits bound len (m + 1)) :
    s.busy = true ∧ ∃ t, seqStep s = .next t ∧
      (m = 0 → t.st = stFailed ∧ t.reason = .initTimeout ∧ t.poll = bound ∧ t.trace.length = len) ∧
      (0 < m → t.InitWaits bound len m) := by
  have hbusy : s.busy = true := by rw [State.busy, h.st]; rfl
  have hin := (h.inv.directions hbusy (by rw [h.st]; decide)).inputs .init (.inl rfl)
  obtain ⟨t, ht, hti, hpoll, hiwb, hprofile, hlen, hreads, hlast, hmore⟩ :=
    initPoll_step h.inv h.st (h.low.getBit hin)
  have hpolls := h.polls
  have htrace := h.trace
  rw [hiwb, h.bound] at hlast hmore
  refine ⟨hbusy, t, ht, fun hm => ?_, fun hm => ?_⟩
  · have he : t.poll = bound := BitVec.eq_of_toNat_eq (by omega)
    exact ⟨(hlast he).1, (hlast he).2, he, by omega⟩
  · have hne : t.poll ≠ bound := fun he => by
      rw [he] at hpoll
      omega
    rw [Nat.add_comm] at h
    exact ⟨hti, hmore hne, h.low.reads hreads hprofile, by omega, hiwb.trans h.bound, by omega⟩

/-- RESET leads on in a full attempt: to FAILED on a zero bound, else to WAIT_INIT. -/
theorem resetFull_step {s : State} (hi : s.Inv) (hst : s.st = stReset) (hro : s.ro = false) :
    ∃ t, seqStep s = .next t ∧ t.Inv ∧ t.poll = 0#32 ∧ t.iwb = s.iwb ∧ t.profile = s.profile ∧
      t.trace.length = s.trace.length + 11 ∧ s.env.Reads 5 t.env ∧
      (s.iwb = 0#32 → t.st = stFailed ∧ t.reason = .initTimeout) ∧ (s.iwb ≠ 0#32 → t.st = stWaitInit) := by
  obtain ⟨v, es, e, hexec, hlen, hreads, -⟩ := stepReset_spec s
  rw [if_neg (by simp [hro])] at hexec
  split at hexec
  · next hzero =>
    have h := (seqStep_of hst (phase_zero hi.selector hst rfl) rfl).trans hexec
    exact ⟨_, h, seqStep_inv hi h, rfl, rfl, rfl, by simp [hlen], hreads, fun _ => ⟨rfl, rfl⟩, absurd hzero⟩
  · next hpos =>
    have h := (seqStep_of hst (phase_zero hi.selector hst rfl) rfl).trans hexec
    exact ⟨_, h, seqStep_inv hi h, rfl, rfl, rfl, by simp [hlen], hreads, fun he => absurd he hpos, fun _ => rfl⟩

/-- Settles O34: SETUP and RESET, then `IWB` polls that read 0 (`polls_run`). -/
theorem initNeverReadyTimesOut : Obligations.InitNeverReadyTimesOut := by
  intro s hi hst hro hreal hscript hlow
  obtain ⟨t, ht, hti, htst, htlen, htenv, htro, htiwb, htprofile⟩ := setup_step hi hst
  obtain ⟨u, hu, hui, hpoll, huiwb, huprofile, hulen, hreads, hzero, hpos⟩ := resetFull_step hti htst (htro.trans hro)
  have hbusy : s.busy = true := by rw [State.busy, hst]; rfl
  have htbusy : t.busy = true := by rw [State.busy, htst]; rfl
  have hlowt : t.HeldLow .init (5 + s.iwb.toNat) :=
    ⟨by rw [htenv]; exact hreal, by rw [htenv]; exact hscript, by rw [htenv, htprofile]; exact hlow⟩
  have hrun (k : Nat) : seqRun (k + 2) s = seqRun k u := by rw [seqRun_succ ht, seqRun_succ hu]
  suffices h : u.BusyFor s.iwb.toNat ∧ ∃ w, seqRun s.iwb.toNat u = .next w ∧ w.st = stFailed ∧
      w.reason = .initTimeout ∧ w.poll = s.iwb ∧ w.trace.length = s.trace.length + 17 + s.iwb.toNat by
    obtain ⟨hbusyu, w, hw, hend⟩ := h
    rw [Nat.add_comm 2]
    exact ⟨State.BusyFor.cons hbusy ht (State.BusyFor.cons htbusy hu hbusyu), w, (hrun _).trans hw, hend⟩
  cases hm : s.iwb.toNat with
  | zero =>
    have hz : s.iwb = 0#32 := BitVec.eq_of_toNat_eq hm
    obtain ⟨hust, hreason⟩ := hzero (htiwb.trans hz)
    exact ⟨fun k _ hk => absurd hk (Nat.not_lt_zero k), u, rfl, hust, hreason, hpoll.trans hz.symm, by omega⟩
  | succ m =>
    have hne : t.iwb ≠ 0#32 := htiwb ▸ word_ne_zero (by omega)
    rw [hm] at hlowt
    refine polls_run initWaits_step m u ⟨hui, hpos hne, hlowt.reads hreads huprofile, ?_, huiwb.trans htiwb, ?_⟩
    · rw [hpoll, hm]
      simp
    · omega

/-! ## DONE is never high -/

/-- A poll of DONE that reads 0: the last one ends the attempt, any other one waits on. -/
theorem donePoll_step {s : State} (hi : s.Inv) (hst : s.st = stWaitDone) (hph : s.ph = true)
    (hpin : s.getBit .ctrl s.profile.pinDone = false) :
    ∃ t, seqStep s = .next t ∧ t.Inv ∧ t.poll.toNat = s.poll.toNat + 1 ∧ t.dwb = s.dwb ∧ t.profile = s.profile ∧
      t.trace.length = s.trace.length + 1 ∧ s.env.Reads 1 t.env ∧ t.banks = s.banks ∧
      (t.poll = t.dwb → t.st = stFailed ∧ t.reason = .doneTimeout) ∧
      (t.poll ≠ t.dwb → t.st = stWaitDone ∧ t.ph = true) := by
  obtain ⟨es, e, hexec, hlen, hreads⟩ := stepPollDone_spec s
  have hpoll := toNat_add_one (hi.donePolls hst hph)
  rw [if_neg (by simp [hpin])] at hexec
  split at hexec
  · next hlast =>
    have h := (seqStep_of hst hph rfl).trans hexec
    exact ⟨_, h, seqStep_inv hi h, hpoll, rfl, rfl, by simp [hlen], hreads, rfl, fun _ => ⟨rfl, rfl⟩, absurd hlast⟩
  · next hmore =>
    have h := (seqStep_of hst hph rfl).trans hexec
    exact ⟨_, h, seqStep_inv hi h, hpoll, rfl, rfl, by simp [hlen], hreads, rfl, fun he => absurd he hmore,
      fun _ => ⟨hst, hph⟩⟩

/-- In WAIT_DONE with `m` polls left, all of which will read 0. -/
structure Machine.State.DoneWaits (bound : Word) (len : Nat) (banks : Banks) (s : State) (m : Nat) : Prop where
  inv : s.Inv
  st : s.st = stWaitDone
  ph : s.ph = true
  low : s.HeldLow .done m
  polls : s.poll.toNat + m = bound.toNat
  bound : s.dwb = bound
  trace : s.trace.length + m = len
  banks : s.banks = banks

theorem doneWaits_step {bound : Word} {len : Nat} {banks : Banks} (s : State) (m : Nat)
    (h : s.DoneWaits bound len banks (m + 1)) :
    s.busy = true ∧ ∃ t, seqStep s = .next t ∧
      (m = 0 → t.st = stFailed ∧ t.reason = .doneTimeout ∧ t.poll = bound ∧ t.trace.length = len ∧ t.banks = banks) ∧
      (0 < m → t.DoneWaits bound len banks m) := by
  have hbusy : s.busy = true := by rw [State.busy, h.st]; rfl
  have hin := (h.inv.directions hbusy (by rw [h.st]; decide)).inputs .done (.inr rfl)
  obtain ⟨t, ht, hti, hpoll, hdwb, hprofile, hlen, hreads, hbanks, hlast, hmore⟩ :=
    donePoll_step h.inv h.st h.ph (h.low.getBit hin)
  have hpolls := h.polls
  have htrace := h.trace
  rw [hdwb, h.bound] at hlast hmore
  refine ⟨hbusy, t, ht, fun hm => ?_, fun hm => ?_⟩
  · have he : t.poll = bound := BitVec.eq_of_toNat_eq (by omega)
    exact ⟨(hlast he).1, (hlast he).2, he, by omega, hbanks.trans h.banks⟩
  · have hne : t.poll ≠ bound := fun he => by
      rw [he] at hpoll
      omega
    rw [Nat.add_comm] at h
    exact ⟨hti, (hmore hne).1, (hmore hne).2, h.low.reads hreads hprofile, by omega, hdwb.trans h.bound, by omega,
      hbanks.trans h.banks⟩

/-- A re-check that reads INIT at 1 leads to FAILED on a zero bound, else to the polls of DONE. -/
theorem checkInit_step {s : State} (hi : s.Inv) (hst : s.st = stWaitDone) (hph : s.ph = false)
    (hpin : s.getBit .ctrl s.profile.pinInit = true) :
    ∃ t, seqStep s = .next t ∧ t.Inv ∧ t.poll = 0#32 ∧ t.dwb = s.dwb ∧ t.profile = s.profile ∧
      t.trace.length = s.trace.length + 1 ∧ s.env.Reads 1 t.env ∧ t.banks = s.banks ∧
      (s.dwb = 0#32 → t.st = stFailed ∧ t.reason = .doneTimeout) ∧
      (s.dwb ≠ 0#32 → t.st = stWaitDone ∧ t.ph = true) := by
  obtain ⟨es, e, hexec, hlen, hreads⟩ := stepCheckInit_spec s
  rw [if_neg (by simp [hpin])] at hexec
  split at hexec
  · next hzero =>
    have h := (seqStep_of hst hph rfl).trans hexec
    exact ⟨_, h, seqStep_inv hi h, rfl, rfl, rfl, by simp [hlen], hreads, rfl, fun _ => ⟨rfl, rfl⟩, absurd hzero⟩
  · next hpos =>
    have h := (seqStep_of hst hph rfl).trans hexec
    exact ⟨_, h, seqStep_inv hi h, rfl, rfl, rfl, by simp [hlen], hreads, rfl, fun he => absurd he hpos,
      fun _ => ⟨hst, rfl⟩⟩

/-- Settles O35: the re-check, then `DWB` polls that read 0 (`polls_run`). -/
theorem doneNeverHighTimesOut : Obligations.DoneNeverHighTimesOut := by
  intro s v vs hi hst hph hreal hscript hinit hlen hlow
  have hbusy : s.busy = true := by rw [State.busy, hst]; rfl
  have hin := (hi.directions hbusy (by rw [hst]; decide)).inputs .init (.inl rfl)
  obtain ⟨t, ht, hti, hpoll, hdwb, hprofile, htlen, hreads, hbanks, hzero, hpos⟩ :=
    checkInit_step hi hst hph ((getBit_script (g := .init) hreal hin hscript).trans hinit)
  have htarget : t.env.target = vs := by rw [hreads.target hreal, hscript]; rfl
  suffices h : t.BusyFor s.dwb.toNat ∧ ∃ u, seqRun s.dwb.toNat t = .next u ∧ u.st = stFailed ∧
      u.reason = .doneTimeout ∧ u.poll = s.dwb ∧ u.trace.length = s.trace.length + 1 + s.dwb.toNat ∧
      u.banks = s.banks by
    obtain ⟨hbusyt, u, hu, hend⟩ := h
    rw [Nat.add_comm 1]
    exact ⟨State.BusyFor.cons hbusy ht hbusyt, u, (seqRun_succ ht _).trans hu, hend⟩
  cases hm : s.dwb.toNat with
  | zero =>
    have hz : s.dwb = 0#32 := BitVec.eq_of_toNat_eq hm
    obtain ⟨htst, hreason⟩ := hzero hz
    exact ⟨fun k _ hk => absurd hk (Nat.not_lt_zero k), t, rfl, htst, hreason, hpoll.trans hz.symm, by omega, hbanks⟩
  | succ m =>
    obtain ⟨htst, htph⟩ := hpos (word_ne_zero (by omega))
    have hlowt : t.HeldLow .done (m + 1) :=
      ⟨hreads.backend.trans hreal, by rw [htarget, ← hm]; exact hlen, by rw [htarget, hprofile]; exact hlow⟩
    exact polls_run doneWaits_step m t
      ⟨hti, htst, htph, hlowt, by rw [hpoll, hm]; simp, hdwb, by omega, hbanks⟩

/-! ## Termination -/

/-- A bound on the steps an attempt still takes (42_sequencer.md R115). -/
def Machine.State.stepsLeft (s : State) : Nat :=
  if s.st = stSetup then 12 + s.iwb.toNat + s.dwb.toNat + s.chunks
  else if s.st = stReset then 11 + s.iwb.toNat + s.dwb.toNat + s.chunks
  else if s.st = stWaitInit then 10 + (s.iwb.toNat - s.poll.toNat) + s.dwb.toNat + s.chunks
  else if s.st = stShifting then
    if s.ph then 9 + s.dwb.toNat + (s.n.toNat - s.idx.toNat) / s.busWidth.toNat else 10 + s.dwb.toNat + s.chunks
  else if s.st = stWaitDone then
    if s.ph then 8 + (s.dwb.toNat - s.poll.toNat) else 9 + s.dwb.toNat
  else if s.st = stCompleting then 8 - s.scnt.toNat
  else 0

section StepsLeft
variable {s : State}

theorem stepsLeft_setup (h : s.st = stSetup) : s.stepsLeft = 12 + s.iwb.toNat + s.dwb.toNat + s.chunks := if_pos h

theorem stepsLeft_reset (h : s.st = stReset) : s.stepsLeft = 11 + s.iwb.toNat + s.dwb.toNat + s.chunks := by
  rw [State.stepsLeft, h]; rfl

theorem stepsLeft_waitInit (h : s.st = stWaitInit) :
    s.stepsLeft = 10 + (s.iwb.toNat - s.poll.toNat) + s.dwb.toNat + s.chunks := by
  rw [State.stepsLeft, h]; rfl

theorem stepsLeft_framing (h : s.st = stShifting) (hph : s.ph = false) :
    s.stepsLeft = 10 + s.dwb.toNat + s.chunks := by
  rw [State.stepsLeft, h, hph]; rfl

theorem stepsLeft_chunk (h : s.st = stShifting) (hph : s.ph = true) :
    s.stepsLeft = 9 + s.dwb.toNat + (s.n.toNat - s.idx.toNat) / s.busWidth.toNat := by
  rw [State.stepsLeft, h, hph]; rfl

theorem stepsLeft_checkInit (h : s.st = stWaitDone) (hph : s.ph = false) : s.stepsLeft = 9 + s.dwb.toNat := by
  rw [State.stepsLeft, h, hph]; rfl

theorem stepsLeft_pollDone (h : s.st = stWaitDone) (hph : s.ph = true) :
    s.stepsLeft = 8 + (s.dwb.toNat - s.poll.toNat) := by
  rw [State.stepsLeft, h, hph]; rfl

theorem stepsLeft_completing (h : s.st = stCompleting) : s.stepsLeft = 8 - s.scnt.toNat := by
  rw [State.stepsLeft, h]; rfl

theorem stepsLeft_ended (h : s.st = stDone ∨ s.st = stFailed) : s.stepsLeft = 0 := by
  rcases h with h | h <;> rw [State.stepsLeft, h] <;> rfl

theorem stepsLeft_lt {t : State} {a b : Nat} (hs : s.stepsLeft = a) (ht : t.stepsLeft = b) (h : b < a) :
    t.stepsLeft < s.stepsLeft := by rwa [hs, ht]

end StepsLeft

/-- The chunk that is due is one of those left. -/
theorem chunksLeft {s : State} (hi : s.Inv) (hst : s.st = stShifting) (hph : s.ph = true) :
    (s.n.toNat - s.idx.toNat) / s.busWidth.toNat =
      (s.n.toNat - (s.idx + s.busWidth).toNat) / s.busWidth.toNat + 1 := by
  have hidx := idx_add_busWidth hi hst hph
  have hinside := chunk_inside hi hst hph
  rw [Nat.div_eq_sub_div (busWidth_pos s) (by omega), hidx, Nat.sub_add_eq]

/-- Each row takes at least one of the steps that are left. -/
theorem row_stepsLeft {s t : State} (hi : s.Inv) (h : Row s t) : t.stepsLeft < s.stepsLeft := by
  cases h
  case setup hst _ _ _ =>
    rw [stepsLeft_setup hst, stepsLeft_reset rfl]
    dsimp only [State.chunks, State.busWidth]
    omega
  case resetOnly hst _ _ _ =>
    rw [stepsLeft_reset hst, stepsLeft_ended (.inl rfl)]
    omega
  case resetZeroBound hst _ _ _ =>
    rw [stepsLeft_reset hst, stepsLeft_ended (.inr rfl)]
    omega
  case resetWaits hst _ _ _ _ _ _ =>
    rw [stepsLeft_reset hst, stepsLeft_waitInit rfl]
    dsimp only [State.chunks, State.busWidth]
    omega
  case initReady hst _ _ =>
    rw [stepsLeft_waitInit hst, stepsLeft_framing rfl rfl]
    have := hi.initPolls hst
    dsimp only [State.chunks, State.busWidth]
    omega
  case initTimeout hst _ _ _ =>
    rw [stepsLeft_waitInit hst, stepsLeft_ended (.inr rfl)]
    omega
  case initWaits hst _ _ _ _ =>
    have hlt := hi.initPolls hst
    refine stepsLeft_lt (stepsLeft_waitInit hst) (stepsLeft_waitInit hst) ?_
    have := toNat_add_one hlt
    dsimp only [State.chunks, State.busWidth]
    omega
  case nothingToShift hst hph _ _ _ =>
    rw [stepsLeft_framing hst hph, stepsLeft_checkInit rfl rfl]
    dsimp only
    omega
  case chunksBegin hst hph _ _ _ =>
    refine stepsLeft_lt (stepsLeft_framing hst hph) (stepsLeft_chunk hst rfl) ?_
    rw [hi.framing hst hph]
    dsimp only [State.chunks, State.busWidth, BitVec.toNat_zero, Nat.sub_zero]
    omega
  case lastChunk hst hph _ _ _ =>
    rw [stepsLeft_chunk hst hph, stepsLeft_checkInit rfl rfl, chunksLeft hi hst hph]
    exact Nat.lt_add_of_pos_right (Nat.succ_pos _)
  case moreChunks hst hph _ _ _ =>
    refine stepsLeft_lt (stepsLeft_chunk hst hph) (stepsLeft_chunk hst hph) ?_
    rw [chunksLeft hi hst hph]
    dsimp only [State.busWidth]
    omega
  case rejected hst hph _ _ =>
    rw [stepsLeft_checkInit hst hph, stepsLeft_ended (.inr rfl)]
    omega
  case doneZeroBound hst hph _ _ _ =>
    rw [stepsLeft_checkInit hst hph, stepsLeft_ended (.inr rfl)]
    omega
  case pollsBegin hst hph _ _ _ _ =>
    refine stepsLeft_lt (stepsLeft_checkInit hst hph) (stepsLeft_pollDone hst rfl) ?_
    dsimp only
    omega
  case doneHigh hst hph _ _ =>
    rw [stepsLeft_pollDone hst hph, stepsLeft_completing rfl]
    have := hi.donePolls hst hph
    dsimp only
    omega
  case doneTimeout hst hph _ _ _ =>
    rw [stepsLeft_pollDone hst hph, stepsLeft_ended (.inr rfl)]
    omega
  case doneWaits hst hph _ _ _ _ =>
    have hlt := hi.donePolls hst hph
    refine stepsLeft_lt (stepsLeft_pollDone hst hph) (stepsLeft_pollDone hst hph) ?_
    have := toNat_add_one hlt
    dsimp only
    omega
  case lastPulse hst _ _ _ =>
    have hdue : s.scnt.toNat < 8 := hi.startupDue hst
    rw [stepsLeft_completing hst, stepsLeft_ended (.inl rfl)]
    omega
  case morePulses hst _ hmore _ _ =>
    have hdue : s.scnt.toNat < 8 := hi.startupDue hst
    refine stepsLeft_lt (stepsLeft_completing hst) (stepsLeft_completing hst) ?_
    dsimp only
    bv_omega

/-- A row ends in DONE or FAILED or in a busy state. -/
theorem row_busy_or_ended {s t : State} (h : Row s t) : t.busy = true ∨ t.st = stDone ∨ t.st = stFailed := by
  cases h
  case resetOnly | lastPulse => exact .inr (.inl rfl)
  case resetZeroBound | initTimeout | rejected | doneZeroBound | doneTimeout => exact .inr (.inr rfl)
  case setup | resetWaits | initReady | nothingToShift | lastChunk | doneHigh => exact .inl rfl
  case initWaits hst _ _ _ _ | chunksBegin hst _ _ _ _ | moreChunks hst _ _ _ _ | pollsBegin hst _ _ _ _ _
      | doneWaits hst _ _ _ _ _ | morePulses hst _ _ _ _ =>
    exact .inl (by rw [State.busy, hst]; rfl)

/-- A busy sequencer comes to an end within the steps that are left. -/
theorem attempt_ends (n : Nat) : ∀ {s : State}, s.Inv → s.busy = true → s.stepsLeft ≤ n →
    ∃ k t, k ≤ n ∧ seqRun k s = .next t ∧ (t.st = stDone ∨ t.st = stFailed) := by
  induction n with
  | zero =>
    intro s hi hbusy hle
    obtain ⟨t, ht⟩ := seqStep_completes s
    have := row_stepsLeft hi (seqStep_row hi.selector hbusy ht)
    omega
  | succ n ih =>
    intro s hi hbusy hle
    obtain ⟨t, ht⟩ := seqStep_completes s
    have hrow := seqStep_row hi.selector hbusy ht
    have hlt := row_stepsLeft hi hrow
    rcases row_busy_or_ended hrow with htbusy | hend
    · obtain ⟨k, u, hk, hu, hend⟩ := ih (seqStep_inv hi ht) htbusy (by omega)
      exact ⟨k + 1, u, by omega, (seqRun_succ ht k).trans hu, hend⟩
    · exact ⟨1, t, by omega, seqRun_one ht, hend⟩

/-- The steps left are bounded by the wait bounds and the chunks. -/
theorem stepsLeft_le {s : State} (hbusy : s.busy = true) :
    s.stepsLeft ≤ 13 + s.iwb.toNat + s.dwb.toNat + s.chunks := by
  have hchunks : (s.n.toNat - s.idx.toNat) / s.busWidth.toNat ≤ s.chunks := Nat.div_le_div_right (Nat.sub_le _ _)
  rcases busy_cases hbusy with hst | hst | hst | hst | hst | hst
  · rw [stepsLeft_setup hst]; omega
  · rw [stepsLeft_reset hst]; omega
  · rw [stepsLeft_waitInit hst]; omega
  · cases hph : s.ph
    · rw [stepsLeft_framing hst hph]; omega
    · rw [stepsLeft_chunk hst hph]; omega
  · cases hph : s.ph
    · rw [stepsLeft_checkInit hst hph]; omega
    · rw [stepsLeft_pollDone hst hph]; omega
  · rw [stepsLeft_completing hst]; omega

/-- Settles O36: each step takes one of the steps that are left (`row_stepsLeft`). -/
theorem everyAttemptTerminates : Obligations.EveryAttemptTerminates := by
  intro s hi hbusy
  obtain ⟨k, t, hk, ht, hend⟩ := attempt_ends s.stepsLeft hi hbusy le_rfl
  exact ⟨k, t, hk.trans (stepsLeft_le hbusy), ht, hend⟩

end Sys2Proof
end

section
/-! PROOFS. The transactions of a full attempt (42_sequencer.md R113): in each state, how many steps the attempt has taken and
how many transactions it has made. -/

namespace Sys2Proof

open Machine

/-- The account of a full attempt that began at `s` and is at `u` after `j` steps: the steps and the transactions, where `p`
counts the polls that are over. -/
def Machine.State.Account (s : State) (j : Nat) (u : State) : Prop :=
  let made (k : Nat) : Prop := u.trace.length = s.trace.length + k
  let c := s.chunks
  if u.st = stSetup then j = 0 ∧ made 0
  else if u.st = stReset then j = 1 ∧ made 6
  else if u.st = stWaitInit then j = 2 + u.poll.toNat ∧ made (17 + u.poll.toNat)
  else if u.st = stShifting then
    if u.ph then ∃ p m, u.idx.toNat = m * s.busWidth.toNat ∧ j = 3 + p + m ∧ made (29 + p + 5 * m)
    else ∃ p, j = 2 + p ∧ made (17 + p)
  else if u.st = stWaitDone then
    if u.ph then ∃ p, j = 4 + p + c + u.poll.toNat ∧ made (30 + p + 5 * c + u.poll.toNat)
    else ∃ p, j = 3 + p + c ∧ made (29 + p + 5 * c)
  else if u.st = stCompleting then ∃ p, j = 4 + p + c + u.scnt.toNat ∧ made (30 + p + 5 * c + 3 * u.scnt.toNat)
  else if u.st = stDone then u.reason = .none ∧ ∃ p, j = 12 + p + c ∧ made (54 + p + 5 * c)
  else u.st = stFailed ∧
    ((u.reason = .initTimeout ∧ made (17 + s.iwb.toNat)) ∨
     (u.reason = .programmingRejected ∧ ∃ p, j = 4 + p + c ∧ made (30 + p + 5 * c)) ∨
     (u.reason = .doneTimeout ∧ ∃ p, j = 4 + p + c + s.dwb.toNat ∧ made (30 + p + 5 * c + s.dwb.toNat)))

section Account
variable {s u : State} {j : Nat}

theorem account_setup (h : u.st = stSetup) : s.Account j u ↔ j = 0 ∧ u.trace.length = s.trace.length := by
  rw [State.Account, h]; rfl

theorem account_reset (h : u.st = stReset) : s.Account j u ↔ j = 1 ∧ u.trace.length = s.trace.length + 6 := by
  rw [State.Account, h]; rfl

theorem account_waitInit (h : u.st = stWaitInit) : s.Account j u ↔
    j = 2 + u.poll.toNat ∧ u.trace.length = s.trace.length + (17 + u.poll.toNat) := by
  rw [State.Account, h]; rfl

theorem account_framing (h : u.st = stShifting) (hph : u.ph = false) : s.Account j u ↔
    ∃ p, j = 2 + p ∧ u.trace.length = s.trace.length + (17 + p) := by
  rw [State.Account, h, hph]; rfl

theorem account_chunk (h : u.st = stShifting) (hph : u.ph = true) : s.Account j u ↔
    ∃ p m, u.idx.toNat = m * s.busWidth.toNat ∧ j = 3 + p + m ∧
      u.trace.length = s.trace.length + (29 + p + 5 * m) := by
  rw [State.Account, h, hph]; rfl

theorem account_checkInit (h : u.st = stWaitDone) (hph : u.ph = false) : s.Account j u ↔
    ∃ p, j = 3 + p + s.chunks ∧ u.trace.length = s.trace.length + (29 + p + 5 * s.chunks) := by
  rw [State.Account, h, hph]; rfl

theorem account_pollDone (h : u.st = stWaitDone) (hph : u.ph = true) : s.Account j u ↔
    ∃ p, j = 4 + p + s.chunks + u.poll.toNat ∧
      u.trace.length = s.trace.length + (30 + p + 5 * s.chunks + u.poll.toNat) := by
  rw [State.Account, h, hph]; rfl

theorem account_completing (h : u.st = stCompleting) : s.Account j u ↔
    ∃ p, j = 4 + p + s.chunks + u.scnt.toNat ∧
      u.trace.length = s.trace.length + (30 + p + 5 * s.chunks + 3 * u.scnt.toNat) := by
  rw [State.Account, h]; rfl

theorem account_done (h : u.st = stDone) : s.Account j u ↔
    u.reason = .none ∧ ∃ p, j = 12 + p + s.chunks ∧ u.trace.length = s.trace.length + (54 + p + 5 * s.chunks) := by
  rw [State.Account, h]; rfl

theorem account_failed (h : u.st = stFailed) : s.Account j u ↔
    ((u.reason = .initTimeout ∧ u.trace.length = s.trace.length + (17 + s.iwb.toNat)) ∨
     (u.reason = .programmingRejected ∧
      ∃ p, j = 4 + p + s.chunks ∧ u.trace.length = s.trace.length + (30 + p + 5 * s.chunks)) ∨
     (u.reason = .doneTimeout ∧ ∃ p, j = 4 + p + s.chunks + s.dwb.toNat ∧
      u.trace.length = s.trace.length + (30 + p + 5 * s.chunks + s.dwb.toNat))) := by
  rw [State.Account, h]
  exact and_iff_right rfl

end Account

/-- The account goes on from row to row. -/
theorem account_row {s u t : State} {j : Nat} (hi : u.Inv) (hro : u.ro = false) (hkeep : s.KeepsConfiguration u)
    (ha : s.Account j u) (h : Row u t) : s.Account (j + 1) t := by
  obtain ⟨-, -, hiwb, hdwb, hw, -, hn, -⟩ := hkeep
  have hbw : u.busWidth = s.busWidth := by rw [State.busWidth, hw, ← State.busWidth]
  have hchunks : u.chunks = s.chunks := by rw [State.chunks, State.chunks, hn, hbw]
  cases h
  case setup hst hlen _ _ =>
    rw [account_setup hst] at ha
    rw [account_reset rfl, List.length_append, hlen]
    omega
  case resetOnly hr _ => simp [hro] at hr
  case resetZeroBound hst _ hz hlen =>
    rw [account_reset hst] at ha
    rw [account_failed rfl, List.length_append, hlen, ← hiwb, hz, BitVec.toNat_zero]
    exact .inl ⟨rfl, by omega⟩
  case resetWaits hst _ _ _ hlen _ _ =>
    rw [account_reset hst] at ha
    rw [account_waitInit rfl, List.length_append, hlen, BitVec.toNat_zero]
    omega
  case initReady hst _ hlen =>
    rw [account_waitInit hst] at ha
    rw [account_framing rfl rfl, List.length_append, hlen]
    exact ⟨u.poll.toNat + 1, by omega, by omega⟩
  case initTimeout hst _ hpoll hlen =>
    rw [account_waitInit hst] at ha
    have hlast := (toNat_add_one (hi.initPolls hst)).symm.trans (congrArg BitVec.toNat hpoll)
    rw [account_failed rfl, List.length_append, hlen, ← hiwb]
    exact .inl ⟨rfl, by omega⟩
  case initWaits hst _ _ hlen _ =>
    rw [account_waitInit hst] at ha
    refine Iff.mpr (account_waitInit hst) ?_
    rw [List.length_append, hlen, toNat_add_one (hi.initPolls hst)]
    omega
  case nothingToShift hst hph hz hlen _ =>
    rw [account_framing hst hph] at ha
    obtain ⟨p, hj, htr⟩ := ha
    have hc : s.chunks = 0 := by rw [← hchunks, State.chunks, hz]; simp
    rw [account_checkInit rfl rfl, List.length_append, hlen, hc]
    refine ⟨p, by omega, ?_⟩
    omega
  case chunksBegin hst hph _ hlen _ =>
    rw [account_framing hst hph] at ha
    obtain ⟨p, hj, htr⟩ := ha
    refine Iff.mpr (account_chunk hst rfl) ⟨p, 0, ?_, by omega, ?_⟩
    · rw [hi.framing hst hph]
      simp
    · rw [List.length_append, hlen]
      omega
  case lastChunk hst hph hlast hlen _ =>
    rw [account_chunk hst hph] at ha
    obtain ⟨p, m, hm, hj, htr⟩ := ha
    have hidx := (idx_add_busWidth hi hst hph).symm.trans (congrArg BitVec.toNat hlast)
    have hc : s.chunks = m + 1 := by
      rw [← hchunks, State.chunks, ← hidx, hm, hbw, ← Nat.succ_mul]
      exact Nat.mul_div_cancel _ (busWidth_pos s)
    rw [account_checkInit rfl rfl, List.length_append, hlen, hc]
    exact ⟨p, by omega, by omega⟩
  case moreChunks hst hph _ hlen _ =>
    rw [account_chunk hst hph] at ha
    obtain ⟨p, m, hm, hj, htr⟩ := ha
    refine Iff.mpr (account_chunk hst hph) ⟨p, m + 1, ?_, by omega, ?_⟩
    · exact (idx_add_busWidth hi hst hph).trans (by rw [hm, hbw, Nat.succ_mul])
    · rw [List.length_append, hlen]
      omega
  case rejected hst hph _ hlen =>
    rw [account_checkInit hst hph] at ha
    obtain ⟨p, hj, htr⟩ := ha
    rw [account_failed rfl, List.length_append, hlen]
    exact .inr (.inl ⟨rfl, p, by omega, by omega⟩)
  case doneZeroBound hst hph _ hz hlen =>
    rw [account_checkInit hst hph] at ha
    obtain ⟨p, hj, htr⟩ := ha
    rw [account_failed rfl, List.length_append, hlen, ← hdwb, hz, BitVec.toNat_zero]
    exact .inr (.inr ⟨rfl, p, by omega, by omega⟩)
  case pollsBegin hst hph _ _ hlen _ =>
    rw [account_checkInit hst hph] at ha
    obtain ⟨p, hj, htr⟩ := ha
    refine Iff.mpr (account_pollDone hst rfl) ⟨p, ?_, ?_⟩
    · rw [BitVec.toNat_zero]
      omega
    · rw [List.length_append, hlen, BitVec.toNat_zero]
      omega
  case doneHigh hst hph _ hlen =>
    rw [account_pollDone hst hph] at ha
    obtain ⟨p, hj, htr⟩ := ha
    rw [account_completing rfl, List.length_append, hlen, BitVec.toNat_zero]
    exact ⟨p + u.poll.toNat + 1, by omega, by omega⟩
  case doneTimeout hst hph _ hpoll hlen =>
    rw [account_pollDone hst hph] at ha
    obtain ⟨p, hj, htr⟩ := ha
    have hlast := (toNat_add_one (hi.donePolls hst hph)).symm.trans (congrArg BitVec.toNat hpoll)
    rw [account_failed rfl, List.length_append, hlen, ← hdwb]
    exact .inr (.inr ⟨rfl, p, by omega, by omega⟩)
  case doneWaits hst hph _ _ hlen _ =>
    rw [account_pollDone hst hph] at ha
    obtain ⟨p, hj, htr⟩ := ha
    refine Iff.mpr (account_pollDone hst hph) ⟨p, ?_, ?_⟩
    · rw [toNat_add_one (hi.donePolls hst hph)]
      omega
    · rw [List.length_append, hlen, toNat_add_one (hi.donePolls hst hph)]
      omega
  case lastPulse hst hph hlast hlen =>
    rw [account_completing hst] at ha
    obtain ⟨p, hj, htr⟩ := ha
    have hscnt : u.scnt.toNat = 7 := by bv_omega
    rw [account_done rfl, List.length_append, hlen]
    exact ⟨rfl, p, by omega, by omega⟩
  case morePulses hst hph hmore hlen _ =>
    rw [account_completing hst] at ha
    obtain ⟨p, hj, htr⟩ := ha
    have hdue : u.scnt.toNat < 8 := hi.startupDue hst
    have hscnt : (u.scnt + 1#4).toNat = u.scnt.toNat + 1 := by bv_omega
    refine Iff.mpr (account_completing hst) ⟨p, ?_, ?_⟩
    · rw [hscnt]
      omega
    · rw [List.length_append, hlen, hscnt]
      omega

/-- A step of the sequencer keeps the kind of the attempt. -/
theorem seqStep_ro {s t : State} (h : seqStep s = .next t) : t.ro = s.ro := by
  unfold seqStep at h
  split at h
  · next i hi =>
    obtain ⟨_, _, _, _, _, _, _, _, _, rfl⟩ := execStep_frame (decodeSelector_step hi) h
    rfl
  · cases h
    rfl

theorem Machine.State.KeepsConfiguration.trans {s t u : State} (h : s.KeepsConfiguration t)
    (h' : t.KeepsConfiguration u) : s.KeepsConfiguration u := by
  obtain ⟨profile, cfgv, iwb, dwb, w, pay, n, params⟩ := h
  obtain ⟨profile', cfgv', iwb', dwb', w', pay', n', params'⟩ := h'
  exact ⟨profile'.trans profile, cfgv'.trans cfgv, iwb'.trans iwb, dwb'.trans dwb, w'.trans w, pay'.trans pay,
    n'.trans n, params'.trans params⟩

/-- The account of a run that stays busy up to its last step. -/
theorem account_run {s : State} (k : Nat) : ∀ {j : Nat} {u t : State}, u.Inv → u.ro = false → s.KeepsConfiguration u →
    s.Account j u → u.BusyFor k → seqRun k u = .next t → s.Account (j + k) t := by
  induction k with
  | zero =>
    intro j u t _ _ _ ha _ h
    cases h
    exact ha
  | succ k ih =>
    intro j u t hi hro hkeep ha hbusy h
    obtain ⟨v, hv⟩ := seqStep_completes u
    have hub : u.busy = true := hbusy 0 u k.succ_pos rfl
    rw [seqRun_succ hv] at h
    rw [show j + (k + 1) = j + 1 + k by omega]
    exact ih (seqStep_inv hi hv) ((seqStep_ro hv).trans hro)
      (hkeep.trans (seqStep_keepsConfiguration hv))
      (account_row hi hro hkeep ha (seqStep_row hi.selector hub hv))
      (fun i w hi hw => hbusy (i + 1) w (by omega) ((seqRun_succ hv i).trans hw)) h

theorem seqRun_inv (k : Nat) : ∀ {s t : State}, s.Inv → seqRun k s = .next t → t.Inv := by
  induction k with
  | zero =>
    intro s t hi h
    cases h
    exact hi
  | succ k ih =>
    intro s t hi h
    obtain ⟨u, hu⟩ := seqStep_completes s
    exact ih (seqStep_inv hi hu) (by rwa [seqRun_succ hu] at h)

/-- Settles O37: the account of the attempt (`account_run`) at its end. -/
theorem transactionsOfAnAttempt : Obligations.TransactionsOfAnAttempt := by
  intro s t k hi hst hro hbusy ht hidle c
  have hstart : s.Account 0 s := (account_setup hst).mpr ⟨rfl, rfl⟩
  have ha := account_run k hi hro (.refl s) hstart hbusy ht
  rw [Nat.zero_add] at ha
  have hfailed (hne : t.reason ≠ .none) := (account_failed ((seqRun_inv k hi ht).reason.mpr hne)).mp ha
  refine ⟨fun hdone => ?success, fun hr => ?initTimeout, fun hr => ?rejected, fun hr => ?doneTimeout⟩
  case success =>
    obtain ⟨-, p, hk, htr⟩ := (account_done hdone).mp ha
    omega
  case initTimeout =>
    rcases hfailed (by rw [hr]; nofun) with ⟨-, htr⟩ | ⟨hr', -⟩ | ⟨hr', -⟩
    · omega
    · cases hr.symm.trans hr'
    · cases hr.symm.trans hr'
  case rejected =>
    rcases hfailed (by rw [hr]; nofun) with ⟨hr', -⟩ | ⟨-, p, hk, htr⟩ | ⟨hr', -⟩
    · cases hr.symm.trans hr'
    · omega
    · cases hr.symm.trans hr'
  case doneTimeout =>
    rcases hfailed (by rw [hr]; nofun) with ⟨hr', -⟩ | ⟨hr', -⟩ | ⟨-, p, hk, htr⟩
    · cases hr.symm.trans hr'
    · cases hr.symm.trans hr'
    · omega

end Sys2Proof
end

section
/-! PROOFS. The host commands (43_host_commands.md R118 to R123), and that an operation with no response was refused
(60_exceptions.md R131). -/

namespace Sys2Proof

open Machine

/-! ## Refusals -/

/-- An operation with a profile condition that gives no response was refused. -/
theorem withProfile_refused {s u : State} {v : Word} (h : (s.withProfile (u.respond v)).resp = none) :
    s.withProfile (u.respond v) = s.refuse .noProfile := by
  cases hc : s.cfgv
  case false => exact withProfile_false _ hc
  case true =>
    rw [withProfile_true _ hc] at h
    cases h

/-- An operation of HOST that gives no response was refused. -/
theorem exec_refused {i : Instr} {s t : State} (hop : hostOperation i = true) (h : exec i s = .next t)
    (hresp : t.resp = none) : ∃ why, t = s.refuse why := by
  cases i
  case bswap | ldw | cmdStatus =>
    cases h
    cases hresp
  case splice o y =>
    cases h
    split at hresp
    · next ho => exact ⟨_, if_pos ho⟩
    · cases hresp
  case setbit | getbit | pulse | setdir | rdreg | wrreg =>
    cases h
    exact ⟨_, withProfile_refused hresp⟩
  case cmdConfig =>
    rcases cmdConfig_next h with rfl | ⟨-, rfl⟩
    · exact ⟨_, rfl⟩
    · cases hresp
  case cmdProgram =>
    rcases cmdProgram_next h with ⟨why, rfl⟩ | rfl
    · exact ⟨why, rfl⟩
    · cases hresp
  case cmdResetOnly =>
    rcases cmdResetOnly_next h with rfl | rfl
    · exact ⟨_, rfl⟩
    · cases hresp
  all_goals cases hop

/-- Settles O18: such an operation was refused (`exec_refused`), and a refusal writes the marks alone. -/
theorem refusedOperationHasNoEffect : Obligations.RefusedOperationHasNoEffect := by
  intro i s t hop h hresp
  obtain ⟨why, rfl⟩ := exec_refused hop h hresp
  exact ⟨rfl, nofun⟩

/-! ## CMD.PROGRAM, CMD.RESET_ONLY and CMD.STATUS -/

/-- Settles O39: no refusal applies, so the operation is its last branch. -/
theorem programStartsAnAttempt : Obligations.ProgramStartsAnAttempt := by
  intro s v pay hcfgv hlen hv
  have hwidth : ¬ (v && s.profile.dataWidthBits == 8#5) = true := by
    rw [Bool.and_eq_true, beq_iff_eq]
    exact fun h => (hv h.1).1 h.2
  have hodd : ¬ (v && pay.length % 2 == 1) = true := by
    rw [Bool.and_eq_true, beq_iff_eq]
    exact fun h => absurd (hv h.1).2 (by omega)
  have h : exec (.cmdProgram v pay) s =
      .next (({ s with w := v, pay := pay, n := BitVec.ofNat 32 pay.length }.beginAttempt false).respond 0#32) :=
    (if_neg (Nat.not_le.mpr hlen)).trans (congrArg Host.Outcome.next
      ((withProfile_true _ hcfgv).trans ((if_neg hwidth).trans (if_neg hodd))))
  exact ⟨_, h, rfl, rfl, (BitVec.toNat_ofNat ..).trans (Nat.mod_eq_of_lt hlen), rfl, rfl, rfl, rfl, rfl, rfl, rfl, rfl,
    rfl, rfl⟩

/-- Settles O41: refused, or the start of an attempt, by `CFGV`. -/
theorem resetOnlyStartsAnAttempt : Obligations.ResetOnlyStartsAnAttempt :=
  fun _ => ⟨fun h => congrArg Host.Outcome.next (withProfile_false _ h),
    fun h => congrArg Host.Outcome.next (withProfile_true _ h)⟩

/-- Settles O44: the length is looked at first. -/
theorem overlongPayloadFaults : Obligations.OverlongPayloadFaults := fun _ _ _ h => if_pos h

/-- `BUSY` by the number of the state (10_state.md R38). -/
theorem busyCode_eq : ∀ st : BitVec 4, busyCode st = decide (1 ≤ st.toNat ∧ st.toNat ≤ 6) := by decide

/-- The status word bit by bit (30_encoding.md R78). -/
theorem statusWord_getLsbD (s : State) {k : Nat} (hk : k < 32) : s.statusWord.getLsbD k =
    if k < 4 then s.st.getLsbD k else if k < 5 then (BitVec.ofBool s.ph).getLsbD (k - 4)
    else if k < 6 then (BitVec.ofBool s.ro).getLsbD (k - 5) else if k < 8 then s.reason.code.getLsbD (k - 6)
    else if k < 9 then (BitVec.ofBool s.busy).getLsbD (k - 8) else (BitVec.ofBool s.cfgv).getLsbD (k - 9) := by
  rw [State.statusWord, BitVec.getLsbD_setWidth, decide_eq_true hk, Bool.true_and]
  iterate 5 rw [BitVec.getLsbD_append]
  interval_cases k <;> rfl

/-- Settles O42: each field is read off the status word (`statusWord_getLsbD`). -/
theorem statusWordFields : Obligations.StatusWordFields := by
  intro s
  have hbit {k : Nat} (hk : k < 32) := statusWord_getLsbD s hk
  refine ⟨s.statusWord, rfl, BitVec.eq_of_getLsbD_eq fun k hk => ?st, ?ph, ?ro, ?reason, ?busy, ?cfgv,
    BitVec.eq_of_getLsbD_eq fun k hk => ?above⟩
  case st => simp [hbit (show k < 32 by omega), hk]
  case ph =>
    rw [hbit (by omega)]
    simp
  case ro =>
    rw [hbit (by omega)]
    simp
  case reason =>
    have hcode : s.statusWord.extractLsb' 6 2 = s.reason.code := BitVec.eq_of_getLsbD_eq fun k hk => by
      simp [hbit (show 6 + k < 32 by omega), hk, show ¬ 6 + k < 4 by omega, show ¬ 6 + k < 5 by omega,
        show 6 + k < 8 by omega]
    rw [hcode]
    cases s.reason <;> rfl
  case busy =>
    rw [hbit (by omega), State.busy, busyCode_eq]
    simp
  case cfgv =>
    rw [hbit (by omega)]
    simp
  case above =>
    have h : (BitVec.ofBool s.cfgv).getLsbD (10 + k - 9) = false := BitVec.getLsbD_of_ge _ _ (by omega)
    rw [BitVec.getLsbD_extractLsb', hbit (show 10 + k < 32 by omega), if_neg (by omega), if_neg (by omega),
      if_neg (by omega), if_neg (by omega), if_neg (by omega), h]
    simp

/-! ## CMD.CONFIG -/

/-- A field is 0 exactly if its bits are. -/
theorem extract_eq_zero_iff {w : Word} {start len : Nat} :
    w.extractLsb' start len = 0#len ↔ ∀ k, start ≤ k → k < start + len → w.getLsbD k = false := by
  constructor
  · intro h k hlo hhi
    have := congrArg (fun x => x.getLsbD (k - start)) h
    simpa [show k - start < len by omega, show start + (k - start) = k by omega] using this
  · intro h
    apply BitVec.eq_of_getLsbD_eq
    intro k hk
    simp [hk, h (start + k) (by omega) (by omega)]

/-- The reserved bits of `PINW` and `GEOW` by their place (43_host_commands.md R119). -/
theorem configBitsClear_iff (pinw geow : Word) : configBitsClear pinw geow = true ↔
    (pinw.getLsbD 30 = false ∧ pinw.getLsbD 31 = false) ∧
    ∀ k, k = 5 ∨ k = 6 ∨ k = 7 ∨ (13 ≤ k ∧ k < 32) → geow.getLsbD k = false := by
  simp only [configBitsClear, Bool.and_eq_true, beq_iff_eq, extract_eq_zero_iff, and_assoc]
  constructor
  · rintro ⟨hpinw, hlow, hhigh⟩
    refine ⟨hpinw 30 (by omega) (by omega), hpinw 31 (by omega) (by omega), fun k hk => ?_⟩
    by_cases h13 : 13 ≤ k
    · exact hhigh k h13 (by omega)
    · exact hlow k (by omega) (by omega)
  · rintro ⟨h30, h31, hgeow⟩
    refine ⟨fun k hlo hhi => ?_, fun k hlo hhi => hgeow k (by omega), fun k hlo hhi => hgeow k (by omega)⟩
    obtain rfl | rfl : k = 30 ∨ k = 31 := by omega
    · exact h30
    · exact h31

/-- The six pin indices of `PINW` are distinct exactly if no two of its fields agree (00_scope.md R9). -/
theorem pins_nodup_iff (pinw geow : Word) (cb db : Nat) : (profileOf pinw geow cb db).pins.Nodup ↔
    ∀ i j, i < 6 → j < 6 → i ≠ j → pinw.extractLsb' (5 * i) 5 ≠ pinw.extractLsb' (5 * j) 5 := by
  have hpins : (profileOf pinw geow cb db).pins = (List.range 6).reverse.map fun i => pinw.extractLsb' (5 * i) 5 := rfl
  rw [hpins, List.nodup_map_iff_inj_on (by decide)]
  simp only [List.mem_reverse, List.mem_range]
  constructor
  · exact fun h i j hi hj hne he => hne (h i hi j hj he)
  · exact fun h i hi j hj he => by_contra fun hne => h i j hi hj hne he

/-- The four register addresses are distinct exactly if the offsets, the bases and the crossed sums are (20_memory.md R46). -/
theorem registerSums_nodup_iff (q : Params) (p : Profile) : (registerSums q p).Nodup ↔
    q.dirOff ≠ q.dataOff ∧ p.ctrlBase ≠ p.dataBase ∧ p.ctrlBase + q.dirOff ≠ p.dataBase + q.dataOff ∧
      p.ctrlBase + q.dataOff ≠ p.dataBase + q.dirOff := by
  simp only [registerSums, List.nodup_cons, List.mem_cons, List.not_mem_nil, or_false, not_or, List.nodup_nil, and_true,
    not_false_eq_true]
  omega

/-- The check of a profile, condition by condition. -/
theorem wellFormed_iff (q : Params) (p : Profile) : p.wellFormed q = true ↔
    (p.dataWidthBits = 8#5 ∨ p.dataWidthBits = 16#5) ∧ p.dataStartBit.toNat + p.dataWidthBits.toNat - 1 < 32 ∧
    p.pins.Nodup ∧ (p.ctrlBase % 4 = 0 ∧ p.dataBase % 4 = 0) ∧ (registerSums q p).Nodup ∧
    ∀ a ∈ registerSums q p, a < 2 ^ q.addrWidth ∧ a % 4 = 0 := by
  simp only [Profile.wellFormed, Bool.and_eq_true, Bool.or_eq_true, beq_iff_eq, decide_eq_true_eq, List.all_eq_true,
    and_assoc]

/-- The check of CMD.CONFIG is the rules' conditions on its words (00_scope.md R9, 43_host_commands.md R119). -/
theorem configOk_iff (q : Params) (pinw geow : Word) (cb db : Nat) : ConfigOk q pinw geow cb db ↔
    (configBitsClear pinw geow && (profileOf pinw geow cb db).wellFormed q) = true := by
  rw [Bool.and_eq_true, configBitsClear_iff, wellFormed_iff, pins_nodup_iff, registerSums_nodup_iff]
  simp only [registerSums, List.forall_mem_cons, List.not_mem_nil, false_imp_iff, implies_true, and_true]
  constructor
  · rintro ⟨width, bus, pins, pinwReserved, geowReserved, baseAligned, ⟨w1, w2, w3, w4⟩, ⟨a1, a2, a3, a4⟩, distinct⟩
    exact ⟨⟨pinwReserved, geowReserved⟩, width, bus, pins, baseAligned, distinct, ⟨w1, a1⟩, ⟨w2, a2⟩, ⟨w3, a3⟩, w4, a4⟩
  · rintro ⟨⟨pinwReserved, geowReserved⟩, width, bus, pins, baseAligned, distinct, ⟨w1, a1⟩, ⟨w2, a2⟩, ⟨w3, a3⟩, w4, a4⟩
    exact ⟨width, bus, pins, pinwReserved, geowReserved, baseAligned, ⟨w1, w2, w3, w4⟩, ⟨a1, a2, a3, a4⟩, distinct⟩

/-- Settles O38: the operation branches on exactly these conditions (`configOk_iff`). -/
theorem configLoadsOnlyAWellFormedProfile : Obligations.ConfigLoadsOnlyAWellFormedProfile := by
  intro s pinw geow iwb dwb cb db
  rw [configOk_iff]
  exact ⟨fun h => congrArg Host.Outcome.next (if_pos h), fun h => congrArg Host.Outcome.next (if_neg h)⟩

end Sys2Proof
end

section
/-! PROOFS. What the steps of the sequencer do to the pins: the chunk on its lanes, the startup pulses, and the foreign bits
(42_sequencer.md R103, R108, 10_state.md R28). -/

namespace Sys2Proof

open Machine

/-! ## The lanes -/

/-- The lanes lie inside the bank, on the data bus (30_encoding.md R65). -/
theorem lanes_inside {q : Params} {p : Profile} (h : p.wellFormed q = true) :
    p.up ≤ 24 ∧ p.lo ≤ 24 ∧ p.up ≤ p.lo ∧ p.lo + 8 = p.dataStartBit.toNat + p.dataWidthBits.toNat := by
  obtain ⟨hw, hbus⟩ := wf_bus h
  unfold Profile.up Profile.lo
  rcases hw with hw | hw <;> simp [hw] at hbus ⊢ <;> omega

/-- A chunk touches no pin off the data bus. -/
theorem chunkWord_offBus {s : State} (h : s.profile.wellFormed s.params = true) (l : Word) {j : BitVec 5}
    (hj : onBus s.profile j = false) : pinOf (s.chunkWord l) j = pinOf l j := by
  obtain ⟨hup, hlo, hle, hend⟩ := lanes_inside h
  have hout : ¬ (s.profile.up ≤ j.toNat ∧ j.toNat < s.profile.lo + 8) := by
    intro hin
    rw [hend] at hin
    simp [onBus, Profile.up] at hj hin
    omega
  unfold State.chunkWord
  split
  · rw [splice_pinOf _ _ _ hlo, if_neg (by omega), splice_pinOf _ _ _ hup, if_neg (by omega)]
  · rw [splice_pinOf _ _ _ hlo, if_neg (by omega)]

/-- A byte of the payload. -/
theorem payByte_inside {s : State} {j : Nat} (h : j < s.pay.length) : s.payByte j = (s.pay[j]?).getD 0#8 := by
  rw [State.payByte, List.getElem?_eq_getElem h, Option.getD_some]

/-- A chunk inside the payload, pin by pin: its first byte on the lower lane, or on the upper lane with the second one
below it (30_encoding.md R66). -/
theorem chunkWord_lanes {s : State} (h : s.profile.wellFormed s.params = true)
    (hw : s.w = true → s.profile.dataWidthBits = 16#5)
    (hpay : s.idx.toNat + (if s.w then 2 else 1) ≤ s.pay.length) (l : Word) (j : BitVec 5) :
    pinOf (s.chunkWord l) j =
      if s.w = true ∧ s.profile.up ≤ j.toNat ∧ j.toNat < s.profile.up + 8 then
        ((s.pay[s.idx.toNat]?).getD 0#8).getLsbD (7 - (j.toNat - s.profile.up))
      else if s.profile.lo ≤ j.toNat ∧ j.toNat < s.profile.lo + 8 then
        ((s.pay[s.idx.toNat + (if s.w then 2 else 1) - 1]?).getD 0#8).getLsbD (7 - (j.toNat - s.profile.lo))
      else pinOf l j := by
  obtain ⟨hup, hlo, -, -⟩ := lanes_inside h
  unfold State.chunkWord
  cases hsw : s.w
  case false =>
    rw [hsw] at hpay
    simp only [Bool.false_eq_true, false_and, if_false] at hpay ⊢
    rw [splice_pinOf _ _ _ hlo, payByte_inside (by omega)]
    rfl
  case true =>
    have hapart : s.profile.lo = s.profile.up + 8 := by simp [Profile.lo, Profile.up, hw hsw]
    rw [hsw] at hpay
    simp only [true_and, if_true] at hpay ⊢
    rw [splice_pinOf _ _ _ hlo, splice_pinOf _ _ _ hup, payByte_inside (by omega), payByte_inside (by omega)]
    by_cases hin : s.profile.up ≤ j.toNat ∧ j.toNat < s.profile.up + 8
    · rw [if_neg (by omega), if_pos hin, if_pos hin]
    · rw [if_neg hin, if_neg hin]
      rfl

/-! ## SHIFT_CHUNK -/

/-- What a chunk step does last, whatever state `u` its transactions have left (42_sequencer.md R103). -/
theorem advanceIdx_cases (u : State) : u.advanceIdx.idx = u.idx + u.busWidth ∧
    (u.advanceIdx.idx = u.n → u.advanceIdx.ph = false ∧ u.advanceIdx.st = stWaitDone) ∧
    (u.advanceIdx.idx ≠ u.n → u.advanceIdx.ph = u.ph ∧ u.advanceIdx.st = u.st) ∧
    ∃ ph st, u.advanceIdx = { u with idx := u.idx + u.busWidth, ph := ph, st := st } := by
  by_cases hlast : u.idx + u.busWidth = u.n
  · have h : u.advanceIdx = { u with idx := u.idx + u.busWidth, ph := false, st := stWaitDone } := if_pos hlast
    rw [h]
    exact ⟨rfl, fun _ => ⟨rfl, rfl⟩, fun hne => absurd hlast hne, _, _, rfl⟩
  · have h : u.advanceIdx = { u with idx := u.idx + u.busWidth } := if_neg hlast
    rw [h]
    exact ⟨rfl, fun he => absurd he hlast, fun _ => ⟨rfl, rfl⟩, _, _, rfl⟩

/-- Settles O23: the data word written is the chunk on its lanes (`chunkWord_lanes`); then the pulse of CLOCK, in raw terms,
and the end of the step (`advanceIdx_cases`). -/
theorem chunkGoesToItsLanes : Obligations.ChunkGoesToItsLanes := by
  refine ⟨rfl, fun s => ?_⟩
  let raw := s.rawRead .data .dat
  let new := bswap32 (s.chunkWord (bswap32 raw))
  let s1 := { s.afterRead .data .dat with env := (s.afterRead .data .dat).afterPay }.memWrite .data .dat new
  obtain ⟨hidx, hlast, hmore, ph, st, hnext⟩ := advanceIdx_cases s.emitChunk
  refine ⟨_, new, s1.rawRead .ctrl .dat, rfl, ?trace, rawRead_dat_outputs s1 .ctrl, ?banks, fun hwf hw hpay j => ?lanes,
    ?idx, hlast, hmore, fun hi hst hph hw => ?inside, ?frame⟩
  case trace =>
    rw [hnext]
    show (s1.pulse .ctrl s.profile.pinClock).trace = _
    simp only [s1, pulse_trace, State.memWrite_trace, State.afterRead_trace, List.append_assoc]
    rfl
  case banks =>
    rw [hnext]
    show (s1.pulse .ctrl s.profile.pinClock).banks = _
    rw [pulse_banks]
    rfl
  case lanes =>
    rw [bswap32_bswap32]
    exact chunkWord_lanes hwf hw hpay _ j
  case idx =>
    rw [hidx]
    show s.idx + s.busWidth = _
    rw [State.busWidth]
    split <;> rfl
  case inside =>
    obtain ⟨hdue, heven⟩ := hi.chunkDue hst hph
    have hro := hi.full (.inr (by simp [State.afterFraming, hst, hph]))
    have hpay := (hi.twoBytes (by rw [State.busy, hst]; rfl) hro hw).2
    have hlen := hi.length
    have := heven hw
    omega
  case frame =>
    rw [hnext]
    rfl

/-! ## COMPLETING -/

/-- What a startup pulse does last, whatever state `u` it has left (42_sequencer.md R108). -/
theorem completingExit_cases (u : State) {t : State}
    (ht : t = if u.scnt = 8#4 then { u with reason := .none, st := stDone } else u) :
    (u.scnt = 8#4 → t.st = stDone ∧ t.reason = .none) ∧ (u.scnt ≠ 8#4 → t.st = u.st ∧ t.reason = u.reason) ∧
    ∃ st reason, t = { u with st := st, reason := reason } := by
  subst ht
  split
  · next h => exact ⟨fun _ => ⟨rfl, rfl⟩, absurd h, _, _, rfl⟩
  · next h => exact ⟨fun he => absurd he h, fun _ => ⟨rfl, rfl⟩, _, _, rfl⟩

/-- Settles O26: the pulse in raw terms (`pulse_trace`, `pulse_banks`), then the exits (`completingExit_cases`). -/
theorem completingPulsesTheClock : Obligations.CompletingPulsesTheClock := by
  refine ⟨rfl, fun s => ?_⟩
  let u : State := { s.pulse .ctrl s.profile.pinClock with scnt := s.scnt + 1#4 }
  obtain ⟨t, ht⟩ : ∃ t, t = if u.scnt = 8#4 then { u with reason := .none, st := stDone } else u := ⟨_, rfl⟩
  obtain ⟨hdone, hmore, st, reason, rfl⟩ := completingExit_cases u ht
  refine ⟨_, s.rawRead .ctrl .dat, congrArg Host.Outcome.next ht.symm, rawRead_dat_outputs s .ctrl, pulse_trace ..,
    ?banks, rfl, hdone, hmore, rfl⟩
  case banks =>
    show (s.pulse .ctrl s.profile.pinClock).banks = _
    rw [pulse_banks]
    rfl

/-- Settles O27: each is the step that leaves the state. -/
theorem idleDoneFailedTakeNoStep : Obligations.IdleDoneFailedTakeNoStep := fun _ => ⟨rfl, rfl, rfl⟩

/-! ## Foreign bits -/

/-- What R28 says of a step: each foreign bit `j` of either bank keeps its direction, and its latch where it is an output. -/
def Machine.State.KeepsForeign (s t : State) (j : BitVec 5) : Prop :=
  ((∀ g, j ≠ s.profile.pin g) →
    t.banks.dirCtrl.getLsbD (rbit j) = s.banks.dirCtrl.getLsbD (rbit j) ∧
    (s.banks.dirCtrl.getLsbD (rbit j) = true →
      t.banks.outCtrl.getLsbD (rbit j) = s.banks.outCtrl.getLsbD (rbit j))) ∧
  (onBus s.profile j = false →
    t.banks.dirData.getLsbD (rbit j) = s.banks.dirData.getLsbD (rbit j) ∧
    (s.banks.dirData.getLsbD (rbit j) = true →
      t.banks.outData.getLsbD (rbit j) = s.banks.outData.getLsbD (rbit j)))

section Foreign
variable {s t : State} {j : BitVec 5}

theorem keepsForeign_of_banks (h : t.banks = s.banks) : s.KeepsForeign t j := by
  rw [State.KeepsForeign, h]
  exact ⟨fun _ => ⟨rfl, fun _ => rfl⟩, fun _ => ⟨rfl, fun _ => rfl⟩⟩

/-- A step that writes the latches alone, the control latch on the pins of signals only and the data latch on the bus only. -/
theorem keepsForeign_of_latches {v d : Word} (h : t.banks = { s.banks with outCtrl := v, outData := d })
    (hv : (∀ g, j ≠ s.profile.pin g) → s.banks.dirCtrl.getLsbD (rbit j) = true →
      v.getLsbD (rbit j) = s.banks.outCtrl.getLsbD (rbit j))
    (hd : onBus s.profile j = false → s.banks.dirData.getLsbD (rbit j) = true →
      d.getLsbD (rbit j) = s.banks.outData.getLsbD (rbit j)) : s.KeepsForeign t j := by
  rw [State.KeepsForeign, h]
  exact ⟨fun hj => ⟨rfl, hv hj⟩, fun hj => ⟨rfl, hd hj⟩⟩

/-- A foreign bit is none of the six pins. -/
theorem foreign_pins (hj : ∀ g, j ≠ s.profile.pin g) : j ≠ s.profile.pinProgram ∧ j ≠ s.profile.pinInit ∧
    j ≠ s.profile.pinCsi ∧ j ≠ s.profile.pinRdwr ∧ j ≠ s.profile.pinClock ∧ j ≠ s.profile.pinDone :=
  ⟨hj .program, hj .init, hj .csi, hj .rdwr, hj .clock, hj .done⟩

/-- SETUP keeps the direction of every foreign bit (42_sequencer.md R97). -/
theorem setup_keepsForeign (hwf : s.profile.wellFormed s.params = true) (h : exec .stepSetup s = .next t) :
    s.KeepsForeign t j := by
  obtain ⟨k, es, hexec, -, hctrl, hdata, houtCtrl, houtData⟩ := stepSetup_spec s
  cases hexec.symm.trans h
  refine ⟨fun hj => ⟨?_, fun _ => by rw [houtCtrl]⟩, fun hj => ⟨?_, fun _ => by rw [houtData]⟩⟩
  · obtain ⟨hprogram, hinit, hcsi, hrdwr, hclock, hdone⟩ := foreign_pins hj
    rw [hctrl, pinOf_ctrlOut, pinOf_ctrlIn]
    simp [hprogram, hinit, hcsi, hrdwr, hclock, hdone]
  · rw [hdata, pinOf_dataOut hwf, hj, Bool.false_or]

/-- A chunk step keeps the latch of every output bit off the bus (42_sequencer.md R103). -/
theorem shiftChunk_keepsForeign (hwf : s.profile.wellFormed s.params = true) (h : exec .stepShiftChunk s = .next t) :
    s.KeepsForeign t j := by
  obtain ⟨v, es, e, hexec, -, -, hlatch⟩ := stepShiftChunk_spec s
  cases hexec.symm.trans h
  refine keepsForeign_of_latches (v := v) (d := bswap32 (s.chunkWord (bswap32 (s.rawRead .data .dat))))
    (by split <;> rfl) (fun hj hout => ?_) (fun hj hout => ?_)
  · obtain ⟨-, -, -, -, hclock, -⟩ := foreign_pins hj
    rw [hlatch j hout, if_neg hclock]
  · rw [bswap32_getLsbD_rbit, chunkWord_offBus hwf _ hj, pinOf_bswap32]
    exact rawRead_dat_bit s .data hout

end Foreign

/-- Settles O30: the directions of SETUP and the latches of the other steps, pin by pin. -/
theorem foreignBitsAreKept : Obligations.ForeignBitsAreKept := by
  intro i s t j hstep hwf h
  suffices hkeep : s.KeepsForeign t j from hkeep
  cases i <;> cases hstep
  case stepIdle | stepDone | stepFailed =>
    cases h
    exact keepsForeign_of_banks rfl
  case stepSetup => exact setup_keepsForeign hwf h
  case stepShiftChunk => exact shiftChunk_keepsForeign hwf h
  case stepReset =>
    obtain ⟨v, es, e, hexec, -, -, hlatch⟩ := stepReset_spec s
    cases hexec.symm.trans h
    refine keepsForeign_of_latches (v := v) (d := s.banks.outData) (by split_ifs <;> rfl) (fun hj hout => ?_)
      fun _ _ => rfl
    obtain ⟨hprogram, -, hcsi, hrdwr, hclock, -⟩ := foreign_pins hj
    rw [hlatch j hout, if_neg (by simp [hprogram, hcsi, hrdwr, hclock])]
  case stepShiftFrame =>
    obtain ⟨v, es, e, hexec, -, -, hlatch⟩ := stepShiftFrame_spec s
    cases hexec.symm.trans h
    refine keepsForeign_of_latches (v := v) (d := s.banks.outData) (by split_ifs <;> rfl) (fun hj hout => ?_)
      fun _ _ => rfl
    obtain ⟨-, -, hcsi, hrdwr, hclock, -⟩ := foreign_pins hj
    rw [hlatch j hout, if_neg hclock, if_neg (by simp [hcsi, hrdwr])]
  case stepCompleting =>
    obtain ⟨v, es, e, hexec, -, -, hlatch⟩ := stepCompleting_spec s
    cases hexec.symm.trans h
    refine keepsForeign_of_latches (v := v) (d := s.banks.outData) (by split_ifs <;> rfl) (fun hj hout => ?_)
      fun _ _ => rfl
    obtain ⟨-, -, -, -, hclock, -⟩ := foreign_pins hj
    rw [hlatch j hout, if_neg hclock]
  case' stepWaitInit => obtain ⟨es, e, hexec, -⟩ := stepWaitInit_spec s
  case' stepCheckInit => obtain ⟨es, e, hexec, -⟩ := stepCheckInit_spec s
  case' stepPollDone => obtain ⟨es, e, hexec, -⟩ := stepPollDone_spec s
  all_goals
    cases hexec.symm.trans h
    exact keepsForeign_of_banks (by split_ifs <;> rfl)

end Sys2Proof
end

section
/-! PROOFS. What every instruction adds to the trace: transactions that account for the banks (00_scope.md R13, 10_state.md
R16 to R18), and what every step keeps of the marks (10_state.md R40). -/

namespace Sys2Proof

open Machine

/-! ## Addresses and replay -/

/-- The four registers of a well-formed profile have addresses of their own (20_memory.md R46, R47). -/
theorem locate_addr {s : State} (hwf : s.profile.wellFormed s.params = true) (b : Bank) (r : Reg) :
    s.locate (s.addr b r) = some (b, r) := by
  obtain ⟨-, -, -, -, hdistinct, hbound⟩ := (wellFormed_iff _ _).mp hwf
  obtain ⟨hreg, hbase, h1, h2⟩ := (registerSums_nodup_iff _ _).mp hdistinct
  simp only [registerSums, List.forall_mem_cons, List.not_mem_nil, false_imp_iff, implies_true, and_true] at hbound
  obtain ⟨⟨hcd, -⟩, ⟨hct, -⟩, ⟨hdd, -⟩, ⟨hdt, -⟩⟩ := hbound
  cases b <;> cases r <;>
    simp [State.locate, State.addr, busAddr, Profile.base, Params.offset, Nat.mod_eq_of_lt, hcd, hct, hdd, hdt,
      hbase.symm, h1.symm, h2.symm, hreg.symm]

theorem replay_append (s : State) (k : Banks) (es fs : List Entry) :
    replay s k (es ++ fs) = (replay s k es).bind fun k' => replay s k' fs := by
  induction es generalizing k with
  | nil => rfl
  | cons e es ih =>
    simp only [List.cons_append, replay]
    cases replayEntry s k e with
    | none => rfl
    | some k' => exact ih k'

/-- Replay knows of a state its addresses alone. -/
theorem replay_congr {s t : State} (hprofile : t.profile = s.profile) (hparams : t.params = s.params) (k : Banks)
    (es : List Entry) : replay t k es = replay s k es := by
  have hlocate (a : Nat) : t.locate a = s.locate a := by
    unfold State.locate State.addr
    rw [hprofile, hparams]
  have hentry (k : Banks) (e : Entry) : replayEntry t k e = replayEntry s k e := by
    cases e <;> simp only [replayEntry, hlocate]
  induction es generalizing k with
  | nil => rfl
  | cons e es ih => simp only [replay, hentry, ih]

/-! ## Transactions -/

/-- From `s` to `t` the profile and the parameters are kept, no mark is cleared, and the entries added to the trace account
for the banks. -/
structure Machine.State.Transacts (s t : State) : Prop where
  profile : t.profile = s.profile
  params : t.params = s.params
  refused : s.refused = true → t.refused = true
  fault : t.fault = s.fault
  accounts : ∃ es, t.trace = s.trace ++ es ∧
    (s.profile.wellFormed s.params = true → replay s s.banks es = some t.banks)

namespace Machine.State.Transacts
variable {s t u : State}

/-- Changes beside the banks, the trace, the profile and the marks make no transaction. -/
theorem update {w ph ro rv : Bool} {pay : List Byte} {n poll idx ww : Word} {st scnt : BitVec 4} {reason : Reason}
    {env : Env} {resp : Option Word} :
    s.Transacts { s with w := w, pay := pay, n := n, st := st, ph := ph, ro := ro, reason := reason, poll := poll,
                         idx := idx, scnt := scnt, ww := ww, rv := rv, env := env, resp := resp } :=
  ⟨rfl, rfl, id, rfl, [], (List.append_nil _).symm, fun _ => rfl⟩

theorem refl (s : State) : s.Transacts s := update

theorem refuse (s : State) (why : RefuseReason) : s.Transacts (s.refuse why) :=
  ⟨rfl, rfl, fun _ => rfl, rfl, [], (List.append_nil _).symm, fun _ => rfl⟩

theorem trans (h : s.Transacts t) (g : t.Transacts u) : s.Transacts u := by
  obtain ⟨es, htrace, hreplay⟩ := h.accounts
  obtain ⟨fs, gtrace, greplay⟩ := g.accounts
  refine ⟨g.profile.trans h.profile, g.params.trans h.params, fun hr => g.refused (h.refused hr),
    g.fault.trans h.fault, es ++ fs, by rw [gtrace, htrace, List.append_assoc], fun hwf => ?_⟩
  rw [replay_append, hreplay hwf, Option.bind_some, ← replay_congr h.profile h.params]
  exact greplay (by rw [h.profile, h.params]; exact hwf)

/-- A write sets the register at its address (10_state.md R16, R18). -/
theorem write (s : State) (b : Bank) (r : Reg) (v : Word) : s.Transacts (s.memWrite b r v) :=
  ⟨rfl, rfl, id, rfl, [.write (s.addr b r) v], rfl, fun hwf => by simp [replay, replayEntry, locate_addr hwf]⟩

/-- A read changes no register, and returns the direction register, or the latch on the output bits (10_state.md R16,
R17). -/
theorem read (s : State) (b : Bank) (r : Reg) : s.Transacts (s.afterRead b r) := by
  refine ⟨rfl, rfl, id, rfl, [.read (s.addr b r) (s.rawRead b r)], rfl, fun hwf => ?_⟩
  cases r
  case dir => simp [replay, replayEntry, locate_addr hwf, rawRead_dir]
  case dat => simp [replay, replayEntry, locate_addr hwf, rawRead_dat_outputs]

theorem setBit (s : State) (b : Bank) (i : BitVec 5) (v : Bool) : s.Transacts (s.setBit b i v) :=
  (read s b .dat).trans (write _ b .dat _)

theorem pulse (s : State) (b : Bank) (i : BitVec 5) : s.Transacts (s.pulse b i) :=
  ((read s b .dat).trans (write _ b .dat _)).trans (write _ b .dat _)

theorem setDirection (s : State) (b : Bank) (o i : Word) : s.Transacts (s.setDirection b o i) :=
  ((read s b .dir).trans (write _ b .dir _)).trans (write _ b .dir _)

theorem frameSignal (s : State) (clock signal : BitVec 5) : s.Transacts (s.frameSignal clock signal) :=
  ((setBit s _ _ _).trans (setBit _ _ _ _)).trans (setBit _ _ _ _)

theorem resetAction (s : State) : s.Transacts s.resetAction := by
  unfold State.resetAction
  refine .trans ?_ (pulse _ _ _)
  refine .trans ?_ (setBit _ _ _ _)
  refine .trans ?_ (setBit _ _ _ _)
  exact (setBit s _ _ _).trans (setBit _ _ _ _)

theorem emitChunk (s : State) : s.Transacts s.emitChunk := by
  unfold State.emitChunk
  refine .trans ?_ (pulse _ _ _)
  refine .trans ?_ (write _ _ _ _)
  exact (read s _ _).trans update

theorem advanceIdx (s : State) : s.Transacts s.advanceIdx := by
  unfold State.advanceIdx
  dsimp only
  split_ifs <;> exact update

theorem enterWaitInit (s : State) : s.Transacts s.enterWaitInit := by
  unfold State.enterWaitInit
  split_ifs <;> exact update

theorem withProfile (h : s.Transacts t) (v : Word) : s.Transacts (s.withProfile (t.respond v)) := by
  unfold State.withProfile
  split
  · exact h.trans update
  · exact refuse s _

end Machine.State.Transacts

open Machine.State (Transacts)

/-- What an instruction does to the banks it does by transactions; CMD.CONFIG alone changes the profile. -/
theorem exec_transacts {i : Instr} {s t : State} (h : exec i s = .next t) :
    s.Transacts t ∨ ∃ p iwb dwb,
      t = { s with profile := p, iwb := iwb, dwb := dwb, cfgv := true }.respond 0#32 := by
  cases i
  case cmdConfig =>
    rcases cmdConfig_next h with rfl | ⟨-, rfl⟩
    · exact .inl (.refuse s _)
    · exact .inr ⟨_, _, _, rfl⟩
  all_goals left
  case cmdProgram =>
    rcases cmdProgram_next h with ⟨why, rfl⟩ | rfl
    · exact .refuse s why
    · exact .update
  case cmdResetOnly =>
    rcases cmdResetOnly_next h with rfl | rfl
    · exact .refuse s _
    · exact .update
  all_goals cases h
  case bswap | ldw | cmdStatus => exact .update
  case splice =>
    split
    · exact .refuse s _
    · exact .update
  case setbit => exact .withProfile (.setBit s _ _ _) _
  case getbit => exact .withProfile ((Transacts.read s _ _).trans .update) _
  case pulse => exact .withProfile (.pulse s _ _) _
  case setdir => exact .withProfile (.setDirection s _ _ _) _
  case rdreg => exact .withProfile ((Transacts.read s _ _).trans .update) _
  case wrreg => exact .withProfile (.write s _ _ _) _
  case stepIdle | stepDone | stepFailed => exact .refl _
  case stepSetup => exact ((Transacts.setDirection s _ _ _).trans (.setDirection _ _ _ _)).trans .update
  case stepReset =>
    split
    · exact (Transacts.resetAction s).trans .update
    · exact (Transacts.resetAction s).trans (.enterWaitInit _)
  case stepWaitInit | stepCheckInit | stepPollDone =>
    have hread := Transacts.read s .ctrl .dat
    split_ifs <;> exact hread.trans .update
  case stepShiftFrame =>
    have hframes := (Transacts.frameSignal s s.profile.pinClock s.profile.pinRdwr).trans
      (.frameSignal _ s.profile.pinClock s.profile.pinCsi)
    split_ifs <;> exact hframes.trans .update
  case stepShiftChunk => exact (Transacts.emitChunk s).trans (.advanceIdx _)
  case stepCompleting =>
    have hpulse := Transacts.pulse s .ctrl s.profile.pinClock
    dsimp only
    split_ifs <;> exact hpulse.trans .update

/-- Settles O55: the transactions of an instruction (`exec_transacts`) account for the banks; CMD.CONFIG makes none. -/
theorem traceAccountsForTheBanks : Obligations.TraceAccountsForTheBanks := by
  intro i s t hwf h
  rcases exec_transacts h with h | ⟨p, iwb, dwb, rfl⟩
  · obtain ⟨es, htrace, hreplay⟩ := h.accounts
    exact ⟨es, htrace, hreplay hwf⟩
  · exact ⟨[], (List.append_nil _).symm, rfl⟩

/-! ## The marks and the trace over every move -/

/-- No mark is cleared, the trace grows, the parameters are constant. -/
def Machine.State.Grows (s t : State) : Prop :=
  (s.refused = true → t.refused = true) ∧ (s.fault = true → t.fault = true) ∧ s.trace <+: t.trace ∧ t.params = s.params

theorem Machine.State.Grows.refl (s : State) : s.Grows s := ⟨id, id, List.prefix_rfl, rfl⟩

section Moves
variable {k : Nat} {s t : State}

theorem exec_grows {i : Instr} (h : exec i s = .next t) : s.Grows t := by
  rcases exec_transacts h with h | ⟨p, iwb, dwb, rfl⟩
  · obtain ⟨es, htrace, -⟩ := h.accounts
    exact ⟨h.refused, fun hf => h.fault.trans hf, htrace ▸ List.prefix_append _ _, h.params⟩
  · exact .refl s

theorem perform_grows {i : Instr} (h : perform k i s = .next t) : s.Grows t := by
  obtain ⟨u, hu, rfl⟩ := perform_next h
  rw [deliver_eq]
  exact (exec_grows hu :)

theorem runMove_grows {m : Move} (h : runMove m s = .next t) : s.Grows t := by
  cases m
  case host k =>
    rcases arrive_next h with rfl | ⟨hosts, rfl⟩ | ⟨i, hosts, -, haccept⟩
    · exact .refl t
    · exact ⟨fun _ => rfl, id, List.prefix_rfl, rfl⟩
    · rcases accept_next haccept with ⟨-, -, rfl⟩ | ⟨-, hperform⟩
      · exact .refl s
      · exact (perform_grows hperform :)
  case seq =>
    change seqStep s = _ at h
    unfold seqStep at h
    split at h
    · exact exec_grows h
    · cases h
      exact .refl s
  case release k =>
    rcases release_next h with ⟨rfl, -⟩ | ⟨-, before, o, after, -, -, hperform⟩
    · exact .refl t
    · exact (perform_grows hperform :)
  case run k =>
    cases h
    obtain ⟨env, hosts, lock, hrun⟩ := runHost_frame k s
    rw [hrun]
    exact .refl s
  case inject init done =>
    cases h
    obtain ⟨banks, hinject⟩ := inject_frame init done s
    rw [hinject]
    exact .refl s

end Moves

/-- Settles O54: each move grows the trace and the marks; before it a step can only set `FAULT`. -/
theorem marksAndTraceOnlyGrow : Obligations.MarksAndTraceOnlyGrow := by
  intro s t h
  obtain ⟨hrefused, hfault, htrace, hparams⟩ := runMove_grows (s := s.ready) h
  exact ⟨hrefused, fun hf => hfault (Bool.or_eq_true_iff.mpr (.inl hf)), htrace, hparams⟩

end Sys2Proof
end

section
/-! PROOFS. What one step of the machine does: the decoded operation meets the lock, an illegal word is refused, a reserved
selector sets the mark, and a quiet machine stays quiet (43_host_commands.md R116, R117, 60_exceptions.md R132, R133). -/

namespace Sys2Proof

open Machine

/-! ## The step that a move makes -/

theorem step_eq {s : State} {m : Move} (h : s.nextMove = m) : step s = runMove m s.ready := by
  rw [step, h]

section Arrival
variable {s : State} {k : Nat} {h : HostAgent} (hk : s.hosts[k]? = some h)
include hk

/-- An operation at the front of HOST `k`'s stream leaves the stream and meets the lock. -/
theorem arrive_op {i : Instr} {ws : List Word} {ps : List (List Byte)}
    (hdecode : decodeStream s.params.addrWidth h.stream h.pays = .op i ws ps) :
    arrive k s = accept k i { s with hosts := s.hosts.set k { h with stream := ws, pays := ps } } := by
  simp only [arrive, hk, hdecode, updateHost_eq_set _ hk]

theorem arrive_illegal {e : DecodeError} (hdecode : decodeStream s.params.addrWidth h.stream h.pays = .illegal e) :
    arrive k s =
      .next ({ s with hosts := s.hosts.set k { h with stream := h.stream.tail } }.refuse .illegalEncoding) := by
  simp only [arrive, hk, hdecode, updateHost_eq_set _ hk]

theorem arrive_incomplete (hdecode : decodeStream s.params.addrWidth h.stream h.pays = .incomplete) :
    arrive k s = .next s := by
  simp only [arrive, hk, hdecode]

end Arrival

theorem accept_free {k : Nat} {i : Instr} {s : State} (hfree : s.busy = false ∨ i = .cmdStatus) :
    accept k i s = perform k i s := by
  refine if_neg ?_
  rcases hfree with hbusy | rfl <;> simp [*]

theorem accept_locked {k : Nat} {i : Instr} {s : State} (hbusy : s.busy = true) (hne : i ≠ .cmdStatus) :
    accept k i s = .next { s with held := s.held ++ [⟨k, i, Config.freePatience s.env.fresh⟩] } :=
  if_pos (by simp [hbusy, hne])

/-- What becomes of a performed operation is what becomes of its `exec`, with the response delivered. -/
theorem outcome_of_perform {o : Host.Outcome State Fault Refusal} {k : Nat} {i : Instr} {s : State}
    (h : o = perform k i s) :
    match exec i s with
    | .next t => o = .next (t.deliver k i)
    | .fault f => o = .fault f
    | .refused r => o = .refused r := by
  subst h
  unfold perform
  cases exec i s <;> rfl

/-! ## The statements about one arrival -/

/-- A reserved selector is the only thing a step adds before its move. -/
theorem ready_of_none {s : State} (hsel : decodeSelector s.selector = none) :
    s.ready = { s with fault := true, env := s.envAfter, held := s.waiting } := by
  have hfault : (s.fault || (decodeSelector s.selector).isNone) = true := by simp [hsel]
  rw [← hfault]
  rfl

/-- Settles O43: the arrival of an operation (`arrive_op`) that the lock lets through (`accept_free`). -/
theorem stepRunsTheDecodedInstruction : Obligations.StepRunsTheDecodedInstruction := by
  refine ⟨fun s i hmove hsel => ?seq, fun s k h i ws ps hmove hk hdecode hfree => ⟨_, rfl, ?host⟩⟩
  case seq =>
    rw [step_eq hmove, ready_of_isSome (by simp [hsel])]
    change seqStep _ = _
    unfold seqStep
    rw [show State.selector { s with env := s.envAfter, held := s.waiting } = s.selector from rfl, hsel]
  case host =>
    have hstep : step s = perform k i { s.ready with hosts := s.hosts.set k { h with stream := ws, pays := ps } } := by
      rw [step_eq hmove]
      exact (arrive_op (s := s.ready) hk hdecode).trans (accept_free hfree)
    exact (outcome_of_perform hstep :)

/-- Settles O45: what arrives while busy is held (`accept_locked`), but for CMD.STATUS, which is performed. -/
theorem lockHoldsOperationsWhileBusy : Obligations.LockHoldsOperationsWhileBusy := by
  intro s k h i ws ps hmove hk hsel hdecode hbusy
  have hstep : step s = accept k i { s with
      hosts := s.hosts.set k { h with stream := ws, pays := ps }, env := s.envAfter, held := s.held } := by
    rw [step_eq hmove, ready_of_isSome hsel, waiting_of_busy hbusy]
    exact arrive_op (s := { s with env := s.envAfter, held := s.held }) hk hdecode
  refine ⟨fun hne => ?held, ?status⟩
  case held => exact ⟨_, _, hstep.trans (accept_locked hbusy hne), rfl, rfl, rfl⟩
  case status =>
    rintro rfl
    have hset : (s.hosts.set k { h with stream := ws, pays := ps })[k]? = some { h with stream := ws, pays := ps } := by
      rw [List.getElem?_set_self (List.getElem?_eq_some_iff.mp hk).1]
    refine ⟨_, hstep.trans (accept_free (.inr rfl)), rfl, ?_, rfl⟩
    exact (updateHost_eq_set _ hset).trans (List.set_set _)

/-- Settles O46: the word is refused before the lock is looked at (`arrive_illegal`). -/
theorem illegalWordIsRefusedAtOnce : Obligations.IllegalWordIsRefusedAtOnce := by
  intro s k h e hmove hk hsel hdecode
  have hstep : step s = .next (State.refuse .illegalEncoding
      { s with hosts := s.hosts.set k { h with stream := h.stream.tail }, env := s.envAfter, held := s.waiting }) := by
    rw [step_eq hmove, ready_of_isSome hsel]
    exact arrive_illegal (s := { s with env := s.envAfter, held := s.waiting }) hk hdecode
  exact ⟨_, hstep, rfl, rfl, rfl, rfl, rfl⟩

/-- Settles O48: the mark is set before the move (`ready_of_none`), and no move clears it (`runMove_grows`). -/
theorem reservedSelectorSetsFault : Obligations.ReservedSelectorSetsFault := by
  intro s hsel
  refine ⟨fun t h => ?mark, fun hmove => ?seq⟩
  case mark =>
    obtain ⟨-, hfault, -⟩ := runMove_grows (s := s.ready) h
    exact hfault (by rw [ready_of_none hsel])
  case seq =>
    rw [step_eq hmove, ← ready_of_none hsel]
    change seqStep s.ready = _
    unfold seqStep
    rw [show decodeSelector s.ready.selector = none from hsel]

/-! ## A quiet machine -/

/-- Nothing is held, and no HOST has a word in its stream or a run. -/
def Machine.State.Quiet (s : State) : Prop :=
  s.busy = false ∧ s.held = [] ∧ ∀ h ∈ s.hosts, h.stream = [] ∧ h.run = none

/-- In a quiet machine no move makes a transaction or starts an attempt. -/
theorem runMove_quiet {m : Move} {s t : State} (hquiet : s.Quiet) (h : runMove m s = .next t) :
    t.trace = s.trace ∧ t.st = s.st := by
  obtain ⟨hbusy, hheld, hhosts⟩ := hquiet
  cases m
  case host k =>
    change arrive k s = _ at h
    cases hk : s.hosts[k]? with
    | none =>
      rw [arrive, hk] at h
      cases h
      exact ⟨rfl, rfl⟩
    | some a =>
      have hempty := (hhosts a (List.mem_of_getElem? hk)).1
      rw [arrive_incomplete hk (by rw [hempty]; rfl)] at h
      cases h
      exact ⟨rfl, rfl⟩
  case seq =>
    cases (seqStep_not_busy hbusy).symm.trans h
    exact ⟨rfl, rfl⟩
  case release k =>
    rcases release_next h with ⟨rfl, -⟩ | ⟨-, before, o, after, hsplit, -⟩
    · exact ⟨rfl, rfl⟩
    · simp [hheld] at hsplit
  case run k =>
    cases h
    obtain ⟨env, hosts, lock, hrun⟩ := runHost_frame k s
    rw [hrun]
    exact ⟨rfl, rfl⟩
  case inject init done =>
    cases h
    obtain ⟨banks, hinject⟩ := inject_frame init done s
    rw [hinject]
    exact ⟨rfl, rfl⟩

/-- Settles O51: the values are those of `State.powerOn`, and a quiet machine stays quiet (`runMove_quiet`). -/
theorem powerOnResetValues : Obligations.PowerOnResetValues := by
  refine ⟨fun d => ?values, ⟨PowerOn.chosen, rfl⟩, fun s t hbusy hheld hhosts h => ?quiet⟩
  case values =>
    exact ⟨rfl, rfl, rfl, rfl, rfl, rfl, rfl, rfl, rfl, rfl, rfl, rfl, rfl, rfl, seqStep_not_busy rfl⟩
  case quiet =>
    refine runMove_quiet (s := s.ready) ⟨hbusy, ?_, hhosts⟩ h
    exact List.length_eq_zero_iff.mp ((waiting_length s).trans (by rw [hheld]; rfl))

end Sys2Proof
end

section
/-! PROOFS. The actions of a HOST's run, phase by phase (60_exceptions.md R143 to R150). -/

namespace Sys2Proof

open Machine

/-! ## The reset sentinel -/

/-- The bytes that fold to a small letter are its two cases. -/
theorem lowerAscii_eq_iff {c x : Byte} (hx : 0x61 ≤ x.toNat ∧ x.toNat ≤ 0x7A) :
    lowerAscii c = x ↔ c = x - 0x20#8 ∨ c = x := by
  unfold lowerAscii
  split <;> bv_omega

theorem isResetSentinel_iff (source : List Byte) : isResetSentinel source = true ↔
    ∃ c1 c2 c3 c4 c5, source = [c1, c2, c3, c4, c5] ∧
      (c1 = 0x52#8 ∨ c1 = 0x72#8) ∧ (c2 = 0x45#8 ∨ c2 = 0x65#8) ∧ (c3 = 0x53#8 ∨ c3 = 0x73#8) ∧
      (c4 = 0x45#8 ∨ c4 = 0x65#8) ∧ (c5 = 0x54#8 ∨ c5 = 0x74#8) := by
  have hr (c : Byte) : lowerAscii c = 0x72#8 ↔ c = 0x52#8 ∨ c = 0x72#8 := lowerAscii_eq_iff (by decide)
  have he (c : Byte) : lowerAscii c = 0x65#8 ↔ c = 0x45#8 ∨ c = 0x65#8 := lowerAscii_eq_iff (by decide)
  have hs (c : Byte) : lowerAscii c = 0x73#8 ↔ c = 0x53#8 ∨ c = 0x73#8 := lowerAscii_eq_iff (by decide)
  have ht (c : Byte) : lowerAscii c = 0x74#8 ↔ c = 0x54#8 ∨ c = 0x74#8 := lowerAscii_eq_iff (by decide)
  rw [isResetSentinel, beq_iff_eq]
  constructor
  · intro h
    simp only [resetSentinel, List.map_eq_cons_iff, List.map_eq_nil_iff, hr, he, hs, ht] at h
    obtain ⟨c1, _, rfl, h1, c2, _, rfl, h2, c3, _, rfl, h3, c4, _, rfl, h4, c5, _, rfl, h5, rfl⟩ := h
    exact ⟨c1, c2, c3, c4, c5, rfl, h1, h2, h3, h4, h5⟩
  · rintro ⟨c1, c2, c3, c4, c5, rfl, h⟩
    simpa only [resetSentinel, List.map_cons, List.map_nil, List.cons.injEq, and_true, hr, he, hs, ht] using h

/-! ## The profile's words -/

section Words
variable (p : Profile)

/-- The words of a profile name it (30_encoding.md R71): field by field, bit by bit. -/
theorem profileOf_words : profileOf p.pinw p.geow p.ctrlBase p.dataBase = p := by
  cases p
  simp only [profileOf, Profile.pinw, Profile.geow, Profile.mk.injEq, true_and]
  refine ⟨?_, ?_, ?_, ?_, ?_, ?_, ?_, ?_⟩ <;>
    refine BitVec.eq_of_getLsbD_eq fun i hi => ?_ <;>
    simp only [BitVec.getLsbD_extractLsb', BitVec.getLsbD_append, hi] <;>
    interval_cases i <;> simp

/-- No reserved bit is set (43_host_commands.md R119). -/
theorem configBitsClear_words : configBitsClear p.pinw p.geow = true := by
  simp only [configBitsClear, Profile.pinw, Profile.geow, Bool.and_eq_true, beq_iff_eq]
  refine ⟨⟨?_, ?_⟩, ?_⟩ <;>
    refine BitVec.eq_of_getLsbD_eq fun i hi => ?_ <;>
    simp only [BitVec.getLsbD_extractLsb', BitVec.getLsbD_append, hi] <;>
    interval_cases i <;> simp

end Words

/-! ## One HOST's move -/

theorem issue_resetOnly (aw : Nat) (h : HostAgent) :
    h.issue aw .cmdResetOnly = { h with stream := h.stream ++ [0x12000000#32] } := by
  rw [HostAgent.issue, show (encode aw .cmdResetOnly).pays = [] from rfl, List.append_nil]
  rfl

theorem issue_status (aw : Nat) (h : HostAgent) :
    h.issue aw .cmdStatus = { h with stream := h.stream ++ [0x13000000#32] } := by
  rw [HostAgent.issue, show (encode aw .cmdStatus).pays = [] from rfl, List.append_nil]
  rfl

/-- A bus width of 2 is width code 1, any other is code 0 (60_exceptions.md R144). -/
theorem issue_program (aw busWidth : Nat) (pay : List Byte) (h : HostAgent) :
    h.issue aw (.cmdProgram (widthCode busWidth) pay) = { h with
      stream := h.stream ++ [if busWidth = 2 then 0x11400000#32 else 0x11000000#32], pays := h.pays ++ [pay] } := by
  unfold widthCode
  by_cases hw : busWidth = 2
  · subst hw
    rfl
  · rw [if_neg hw, beq_eq_false_iff_ne.mpr hw]
    rfl

theorem setHost_eq {s : State} {k : Nat} {h : HostAgent} (hk : s.hosts[k]? = some h) (h' : HostAgent) :
    s.setHost k h' = { s with hosts := s.hosts.set k h' } := by
  rw [State.setHost, updateHost_eq_set _ hk]

/-- The end of a run that holds the session lock releases it (60_exceptions.md R150). -/
theorem finishRun_eq {s : State} {k : Nat} {h : HostAgent} (hk : s.hosts[k]? = some h) (hlock : s.runLock = some k)
    (h' : HostAgent) (r : HostRun) :
    s.finishRun k h' r = { s with hosts := s.hosts.set k { h' with run := some r }, runLock := none } := by
  rw [State.finishRun, setHost_eq hk, if_pos hlock]
  rfl

/-- The answer of a run is its HOST's oldest response, if it is of the operation the run waits for. -/
theorem answer_of_inbox {h : HostAgent} {r : HostRun} {x : Response} {xs : List Response} (hinbox : h.inbox = x :: xs)
    (hawaits : r.awaits x.op = true) : h.answer r = some x.word := by
  simp only [HostAgent.answer, hinbox, hawaits, if_true]

section Run
variable {s : State} {k : Nat} {h : HostAgent} {r : HostRun} (hk : s.hosts[k]? = some h) (hrun : h.run = some r)
include hk hrun

theorem runHost_waits (hphase : r.phase = .waitLock) (hwait : s.runLock ≠ none ∨ s.settled k h = false) :
    s.runHost k = s := by
  simp only [State.runHost, hk, hrun, hphase]
  split
  · rfl
  · next hlock => rw [hwait.resolve_left (absurd hlock)]; rfl

theorem runHost_begins (hphase : r.phase = .waitLock) (hlock : s.runLock = none) (hsettled : s.settled k h = true) :
    s.runHost k = { s with
      runLock := some k
      hosts := s.hosts.set k
        ((h.forget.issue s.params.addrWidth (r.configOp s.params)).withRun { r with phase := .awaitConfig }) } := by
  simp only [State.runHost, hk, hrun, hphase, hlock, hsettled, if_true, setHost_eq hk]

theorem runHost_nextAttempt (hphase : r.phase = .nextAttempt) : s.runHost k = s.runAttempt k h r := by
  simp only [State.runHost, hk, hrun, hphase]

theorem runHost_awaitStatus (hphase : r.phase = .awaitStatus) {v : Word} {vs : List Response}
    (hinbox : h.inbox = ⟨.cmdStatus, v⟩ :: vs) : s.runHost k = s.runStatus k v h.takeResponse r := by
  have hanswer : h.answer r = some v := answer_of_inbox hinbox (by simp [HostRun.awaits, hphase])
  simp only [State.runHost, hk, hrun, hphase, hanswer]

theorem runHost_sentinel (hphase : r.phase = .awaitConfig) (hreset : isResetSentinel r.imageSource = true)
    {pinw geow iwb dwb v : Word} {cb db : Nat} {vs : List Response}
    (hinbox : h.inbox = ⟨.cmdConfig pinw geow cb db iwb dwb, v⟩ :: vs) :
    s.runHost k = { s with
      hosts := s.hosts.set k
        ((h.takeResponse.issue s.params.addrWidth .cmdResetOnly).withRun { r with phase := .awaitStart }) } := by
  have hanswer : h.answer r = some v := answer_of_inbox hinbox (by simp [HostRun.awaits, hphase])
  simp only [State.runHost, hk, hrun, hphase, hanswer, hreset, if_true, setHost_eq hk]

end Run

/-- Settles O59: the sentinel byte by byte (`isResetSentinel_iff`), and what its run issues (`runHost_sentinel`). -/
theorem resetSentinelIssuesResetOnly : Obligations.ResetSentinelIssuesResetOnly := by
  refine ⟨isResetSentinel_iff, fun s k h r pinw geow iwb dwb v cb db vs hk hrun hphase hinbox hreset => ?_⟩
  rw [runHost_sentinel hk hrun hphase hreset hinbox, issue_resetOnly, HostAgent.takeResponse, hinbox]
  rfl

/-! ## Board resolution -/

/-- An identifier recognised once gives its board's profile. -/
theorem resolveBoard_of_mem {q : Params} {boardId : List Byte} {p : Profile} (hmem : (boardId, p) ∈ q.boards)
    (honce : ∀ x ∈ q.boards, x.1 = boardId → x.2 = p) : resolveBoard q boardId = p := by
  unfold resolveBoard
  split
  · next x hx => exact honce x (List.mem_of_find?_eq_some hx) (by simpa using List.find?_some hx)
  · next hnone => simpa using List.find?_eq_none.mp hnone _ hmem

theorem resolveBoard_of_not_mem {q : Params} {boardId : List Byte} (hnone : ∀ x ∈ q.boards, x.1 ≠ boardId) :
    resolveBoard q boardId = q.defaultBoard := by
  unfold resolveBoard
  rw [List.find?_eq_none.mpr (by simpa using hnone)]

/-- Every earlier word of the HOST has been performed or refused. -/
theorem settled_iff {s : State} {k : Nat} {h : HostAgent} :
    s.settled k h = true ↔ h.stream = [] ∧ ∀ o ∈ s.held, o.host ≠ k := by
  simp [State.settled]

/-- Settles O58: the run begins exactly where `runHost_waitLock` lets it, with the words of the resolved profile. -/
theorem runConfiguresTheResolvedBoard : Obligations.RunConfiguresTheResolvedBoard := by
  intro s k h r hk hrun hphase
  refine ⟨fun hwait => runHost_waits hk hrun hphase ?waits, fun hlock hstream hheld => ?starts⟩
  case waits =>
    refine hwait.imp_right fun hw => Bool.eq_false_iff.mpr fun hsettled => ?_
    obtain ⟨hstream, hheld⟩ := settled_iff.mp hsettled
    rcases hw with hw | ⟨o, ho, hw⟩
    · exact hw hstream
    · exact hheld o ho hw
  case starts =>
    set p := resolveBoard s.params r.boardId with hp
    refine ⟨(encode s.params.addrWidth (r.configOp s.params)).words, p, ?_, fun p' => resolveBoard_of_mem,
      resolveBoard_of_not_mem, fun hcb hdb => ⟨p.pinw, p.geow, ?_, profileOf_words p, configBitsClear_words p⟩⟩
    · rw [runHost_begins hk hrun hphase hlock (settled_iff.mpr ⟨hstream, hheld⟩)]
      simp [HostAgent.forget, HostAgent.issue, HostAgent.withRun, hstream, HostRun.configOp, encode, Encoding.pays]
    · have hwf : (r.configOp s.params).wf s.params.addrWidth = true := by
        simpa [HostRun.configOp, Instr.wf, ← hp] using ⟨hcb, hdb⟩
      have hdecode := decodeStream_hostOperation (i := r.configOp s.params) rfl hwf [] []
      rw [List.append_nil] at hdecode
      exact hdecode

/-! ## Attempts -/

section Attempt
variable {s : State} {k : Nat} {h : HostAgent} {r : HostRun} (hk : s.hosts[k]? = some h)
include hk

theorem runAttempt_last (hmade : 3 ≤ r.attempts) (hlock : s.runLock = some k) :
    s.runAttempt k h r = { s with
      hosts := s.hosts.set k { h with run := some { r with phase := .failed r.lastError } }, runLock := none } :=
  (if_pos hmade).trans (finishRun_eq hk hlock h _)

variable (hless : r.attempts < 3)
include hless

theorem runAttempt_payload {pay : List Byte} (himage : r.nextImage s.env = .payload pay) :
    s.runAttempt k h r = { s with
      env := s.env.afterImage r
      hosts := s.hosts.set k { h with
        stream := h.stream ++ [if r.busWidth = 2 then 0x11400000#32 else 0x11000000#32], pays := h.pays ++ [pay],
        run := some { r with phase := .awaitStart, attempts := r.attempts + 1, images := r.images.tail } } } := by
  refine (if_neg (Nat.not_le.mpr hless)).trans ?_
  dsimp only
  rw [himage]
  dsimp only
  rw [setHost_eq (s := { s with env := s.env.afterImage r }) hk, issue_program]
  rfl

theorem runAttempt_failure (himage : ∀ pay, r.nextImage s.env ≠ .payload pay) :
    s.runAttempt k h r = { s with
      env := s.env.afterImage r
      hosts := s.hosts.set k { h with run := some { r with
        attempts := r.attempts + 1, images := r.images.tail, lastError := imageError (r.nextImage s.env) } } } := by
  refine (if_neg (Nat.not_le.mpr hless)).trans ?_
  dsimp only
  split
  · next pay hpay => exact absurd hpay (himage pay)
  · exact setHost_eq (s := { s with env := s.env.afterImage r }) hk _

end Attempt

/-- What fetch and parse answer: the run's scripted answer, or the free value where the script is empty (log 21). -/
def Machine.HostRun.Answers (r : HostRun) (e : Env) (x : ImageResult) (images : List ImageResult) (env : Env) : Prop :=
  (r.images = x :: images ∧ env = e) ∨
  (r.images = [] ∧ images = [] ∧ x = Config.freeImage e.fresh ∧ env = { e with fresh := e.fresh + 1 })

theorem Machine.HostRun.Answers.eqs {r : HostRun} {e : Env} {x : ImageResult} {images : List ImageResult} {env : Env} :
    r.Answers e x images env → r.nextImage e = x ∧ r.images.tail = images ∧ e.afterImage r = env := by
  rintro (⟨himages, rfl⟩ | ⟨himages, rfl, rfl, rfl⟩) <;>
    simp [HostRun.nextImage, Env.afterImage, himages]

/-! ## The status word -/

section Status
variable {s : State} {k : Nat} {h : HostAgent} {r : HostRun} {v : Word} (hk : s.hosts[k]? = some h)
include hk

theorem runStatus_busy (hbusy : v.getLsbD 8 = true) (h' : HostAgent) :
    s.runStatus k v h' r = { s with hosts := s.hosts.set k { h' with stream := h'.stream ++ [0x13000000#32] } } := by
  rw [State.runStatus, if_pos hbusy, setHost_eq hk, issue_status]

variable (hbusy : v.getLsbD 8 = false)
include hbusy

theorem runStatus_success (hdone : isResetSentinel r.imageSource = true ∨ v.extractLsb' 0 4 = stDone)
    (hlock : s.runLock = some k) (h' : HostAgent) :
    s.runStatus k v h' r =
      { s with hosts := s.hosts.set k { h' with run := some { r with phase := .succeeded } }, runLock := none } := by
  rw [State.runStatus, if_neg (by rw [hbusy]; exact Bool.false_ne_true), if_pos (by simpa using hdone)]
  exact finishRun_eq hk hlock h' _

theorem runStatus_failed (hreset : isResetSentinel r.imageSource = false) (hfailed : v.extractLsb' 0 4 = stFailed)
    (h' : HostAgent) :
    s.runStatus k v h' r = { s with
      hosts := s.hosts.set k
        { h' with run := some { r with lastError := statusError v, phase := .nextAttempt } } } := by
  rw [State.runStatus, if_neg (by rw [hbusy]; exact Bool.false_ne_true),
    if_neg (by simp [hreset, hfailed, stDone, stFailed]), if_pos hfailed]
  exact setHost_eq hk _

end Status

end Sys2Proof
end

section
/-! PROOFS. The rows of a HOST's move, the bound on attempts, and the runs in step (60_exceptions.md R143 to R150; log 32). -/

namespace Sys2Proof

open Machine

/-! ## The rows of a HOST's move -/

/-- What HOST `k`, with run `r`, and the session lock become by a move of the run. -/
inductive Machine.RunRow (s : State) (k : Nat) (h : HostAgent) (r : HostRun) : HostAgent → Option Nat → Prop
  | waits : RunRow s k h r h s.runLock
  | begins (hphase : r.phase = .waitLock) (hlock : s.runLock = none) (hsettled : s.settled k h = true) :
      RunRow s k h r ((h.forget.issue s.params.addrWidth (r.configOp s.params)).withRun { r with phase := .awaitConfig })
        (some k)
  | resets (hphase : r.phase = .awaitConfig) {v : Word} (hanswer : h.answer r = some v)
      (hreset : isResetSentinel r.imageSource = true) :
      RunRow s k h r ((h.takeResponse.issue s.params.addrWidth .cmdResetOnly).withRun { r with phase := .awaitStart })
        s.runLock
  | configured (hphase : r.phase = .awaitConfig) {v : Word} (hanswer : h.answer r = some v)
      (hreset : isResetSentinel r.imageSource = false) :
      RunRow s k h r (h.takeResponse.withRun { r with phase := .nextAttempt }) s.runLock
  | exhausted (hphase : r.phase = .nextAttempt) :
      RunRow s k h r (h.withRun { r with phase := .failed r.lastError }) (if s.runLock = some k then none else s.runLock)
  | programs (hphase : r.phase = .nextAttempt) (hless : r.attempts < 3) (pay : List Byte) :
      RunRow s k h r ((h.issue s.params.addrWidth (.cmdProgram (widthCode r.busWidth) pay)).withRun
        { r with phase := .awaitStart, attempts := r.attempts + 1, images := r.images.tail }) s.runLock
  | imageFails (hphase : r.phase = .nextAttempt) (hless : r.attempts < 3) (e : Option LoadError) :
      RunRow s k h r
        (h.withRun { r with attempts := r.attempts + 1, images := r.images.tail, lastError := e }) s.runLock
  | started (hphase : r.phase = .awaitStart) {v : Word} (hanswer : h.answer r = some v) :
      RunRow s k h r ((h.takeResponse.issue s.params.addrWidth .cmdStatus).withRun { r with phase := .awaitStatus })
        s.runLock
  | polls (hphase : r.phase = .awaitStatus) {v : Word} (hanswer : h.answer r = some v) :
      RunRow s k h r ((h.takeResponse.issue s.params.addrWidth .cmdStatus).withRun r) s.runLock
  | succeeds (hphase : r.phase = .awaitStatus) {v : Word} (hanswer : h.answer r = some v) :
      RunRow s k h r (h.takeResponse.withRun { r with phase := .succeeded })
        (if s.runLock = some k then none else s.runLock)
  | attemptFails (hphase : r.phase = .awaitStatus) {v : Word} (hanswer : h.answer r = some v)
      (hreset : isResetSentinel r.imageSource = false) (e : Option LoadError) :
      RunRow s k h r (h.takeResponse.withRun { r with lastError := e, phase := .nextAttempt }) s.runLock

/-- HOST `k` is `h` and the session lock `lock`; the environment has made its draws. -/
def Machine.State.afterRun (s : State) (k fresh : Nat) (h : HostAgent) (lock : Option Nat) : State :=
  { s with env := { s.env with fresh := fresh }, hosts := s.hosts.set k h, runLock := lock }

@[simp] theorem afterRun_hosts (s : State) (k fresh : Nat) (h : HostAgent) (lock : Option Nat) :
    (s.afterRun k fresh h lock).hosts = s.hosts.set k h := rfl

/-- An answer of fetch and parse takes a draw from the environment, and nothing else. -/
theorem afterImage_fresh (e : Env) (r : HostRun) : { e with fresh := (e.afterImage r).fresh } = e.afterImage r := by
  unfold Env.afterImage
  split <;> rfl

section Row
variable {s : State} {k : Nat} {h : HostAgent} {r : HostRun} (hk : s.hosts[k]? = some h) (hrun : h.run = some r)
include hk

theorem runAttempt_row (hphase : r.phase = .nextAttempt) : ∃ fresh h' lock,
    s.runAttempt k h r = s.afterRun k fresh h' lock ∧ RunRow s k h r h' lock := by
  by_cases hless : r.attempts < 3
  case neg =>
    refine ⟨s.env.fresh, _, _, (if_pos (Nat.not_lt.mp hless)).trans ?_, .exhausted hphase⟩
    rw [State.finishRun, setHost_eq hk]
    rfl
  case pos =>
    cases himage : r.nextImage s.env
    case payload pay =>
      refine ⟨(s.env.afterImage r).fresh, _, _, ?_, .programs hphase hless pay⟩
      rw [runAttempt_payload hk hless himage, issue_program, State.afterRun, afterImage_fresh]
      rfl
    all_goals
      refine ⟨(s.env.afterImage r).fresh, _, _, ?_, .imageFails hphase hless (imageError (r.nextImage s.env))⟩
      rw [runAttempt_failure hk hless (by simp [himage]), State.afterRun, afterImage_fresh]
      rfl

include hrun

theorem runStatus_row (hphase : r.phase = .awaitStatus) {v : Word} (hanswer : h.answer r = some v) : ∃ fresh h' lock,
    s.runStatus k v h.takeResponse r = s.afterRun k fresh h' lock ∧
      RunRow s k h r h' lock := by
  have hpolls : s.setHost k (h.takeResponse.issue s.params.addrWidth .cmdStatus) = { s with
      hosts := s.hosts.set k ((h.takeResponse.issue s.params.addrWidth .cmdStatus).withRun r) } := by
    rw [setHost_eq hk, HostAgent.withRun, ← hrun]
    rfl
  unfold State.runStatus
  dsimp only
  split_ifs with hbusy hdone hfailed
  · exact ⟨s.env.fresh, _, _, hpolls, .polls hphase hanswer⟩
  · refine ⟨s.env.fresh, _, _, ?_, .succeeds hphase hanswer⟩
    rw [State.finishRun, setHost_eq hk]
    rfl
  · have hreset : isResetSentinel r.imageSource = false := by
      simpa using (not_or.mp (mt Bool.or_eq_true_iff.mpr hdone)).1
    exact ⟨s.env.fresh, _, _, setHost_eq hk _, .attemptFails hphase hanswer hreset _⟩
  · exact ⟨s.env.fresh, _, _, hpolls, .polls hphase hanswer⟩

/-- A move of HOST `k`'s run changes that HOST and the session lock by one of the rows. -/
theorem runHost_row : ∃ fresh h' lock,
    s.runHost k = s.afterRun k fresh h' lock ∧ RunRow s k h r h' lock := by
  have hwaits : ∃ fresh h' lock,
      s = s.afterRun k fresh h' lock ∧ RunRow s k h r h' lock := by
    have hset : s.hosts.set k h = s.hosts := by
      obtain ⟨hlt, rfl⟩ := List.getElem?_eq_some_iff.mp hk
      exact List.set_getElem_self hlt
    exact ⟨s.env.fresh, h, s.runLock, by rw [State.afterRun, hset], .waits⟩
  cases hphase : r.phase
  case nextAttempt =>
    rw [runHost_nextAttempt hk hrun hphase]
    exact runAttempt_row hk hphase
  case waitLock =>
    by_cases hbegin : s.runLock = none ∧ s.settled k h = true
    · exact ⟨s.env.fresh, _, _, runHost_begins hk hrun hphase hbegin.1 hbegin.2, .begins hphase hbegin.1 hbegin.2⟩
    · rw [runHost_waits hk hrun hphase (by simpa [or_iff_not_imp_left] using hbegin)]
      exact hwaits
  case succeeded | failed =>
    simp only [State.runHost, hk, hrun, hphase]
    exact hwaits
  all_goals simp only [State.runHost, hk, hrun, hphase]
  case awaitConfig =>
    split
    · exact hwaits
    · next v hanswer =>
      split
      · next hreset => exact ⟨s.env.fresh, _, _, setHost_eq hk _, .resets hphase hanswer hreset⟩
      · next hreset => exact ⟨s.env.fresh, _, _, setHost_eq hk _, .configured hphase hanswer (by simpa using hreset)⟩
  case awaitStart =>
    split
    · exact hwaits
    · next v hanswer => exact ⟨s.env.fresh, _, _, setHost_eq hk _, .started hphase hanswer⟩
  case awaitStatus =>
    split
    · exact hwaits
    · next v hanswer => exact runStatus_row hk hrun hphase hanswer

end Row

theorem runHost_of_none {s : State} {k : Nat} (hk : ∀ h r, s.hosts[k]? = some h → h.run ≠ some r) : s.runHost k = s := by
  unfold State.runHost
  split
  · rfl
  · next h hh =>
    split
    · rfl
    · next r hr => exact absurd hr (hk h r hh)

/-! ## The number of attempts -/

/-- No run has made more than three attempts (60_exceptions.md R147). -/
def Machine.State.AtMostThree (s : State) : Prop := ∀ h ∈ s.hosts, ∀ r, h.run = some r → r.attempts ≤ 3

/-- A row leaves the attempts of the run, or makes one more where fewer than three have been made. -/
theorem Machine.RunRow.attempts {s : State} {k : Nat} {h h' : HostAgent} {r : HostRun} {lock : Option Nat}
    (hrun : h.run = some r) (row : RunRow s k h r h' lock) (hr : r.attempts ≤ 3) {r' : HostRun}
    (hrun' : h'.run = some r') :
    r'.attempts ≤ 3 := by
  cases row
  case waits =>
    cases hrun.symm.trans hrun'
    exact hr
  case programs hless _ | imageFails hless _ =>
    cases hrun'
    exact hless
  all_goals
    cases hrun'
    exact hr

theorem runHost_atMostThree {s : State} (k : Nat) (hs : s.AtMostThree) : (s.runHost k).AtMostThree := by
  by_cases hsome : ∃ h r, s.hosts[k]? = some h ∧ h.run = some r
  case neg => rwa [runHost_of_none fun h r hk hrun => hsome ⟨h, r, hk, hrun⟩]
  case pos =>
    obtain ⟨h, r, hk, hrun⟩ := hsome
    obtain ⟨fresh, h', lock, heq, row⟩ := runHost_row hk hrun
    rw [heq]
    intro x hx r' hr'
    rcases List.mem_or_eq_of_mem_set hx with hx | rfl
    · exact hs x hx r' hr'
    · exact row.attempts hrun (hs h (List.mem_of_getElem? hk) r hrun) hr'

section Moves
variable {k : Nat} {s t : State} (hs : s.AtMostThree)
include hs

/-- What changes no HOST's run keeps the bound. -/
theorem updateHost_atMostThree {f : HostAgent → HostAgent} (hf : ∀ h, (f h).run = h.run) :
    ∀ h ∈ updateHost f k s.hosts, ∀ r, h.run = some r → r.attempts ≤ 3 :=
  updateHost_forall (fun h hh r hr => hh r ((hf h).symm.trans hr)) hs

theorem perform_atMostThree {i : Instr} (h : perform k i s = .next t) : t.AtMostThree := by
  obtain ⟨u, hu, rfl⟩ := perform_next h
  obtain ⟨hhosts, -⟩ := exec_agents hu
  have hu : u.AtMostThree := by
    unfold State.AtMostThree
    rwa [hhosts]
  unfold State.deliver
  split
  · exact hu
  · exact updateHost_atMostThree hu fun _ => rfl

theorem arrive_atMostThree (h : arrive k s = .next t) : t.AtMostThree := by
  unfold arrive at h
  split at h
  · cases h
    exact hs
  · split at h
    · cases h
      exact hs
    · cases h
      exact updateHost_atMostThree hs fun _ => rfl
    · next i ws ps _ =>
      have hs' : State.AtMostThree
          { s with hosts := updateHost (fun h => { h with stream := ws, pays := ps }) k s.hosts } :=
        updateHost_atMostThree hs fun _ => rfl
      rcases accept_next h with ⟨-, -, rfl⟩ | ⟨-, hperform⟩
      · exact hs'
      · exact perform_atMostThree hs' hperform

theorem runMove_atMostThree {m : Move} (h : runMove m s = .next t) : t.AtMostThree := by
  cases m
  case host k => exact arrive_atMostThree hs h
  case seq =>
    change seqStep s = _ at h
    unfold seqStep at h
    split at h
    · obtain ⟨hhosts, -⟩ := exec_agents h
      unfold State.AtMostThree
      rwa [hhosts]
    · cases h
      exact hs
  case release k =>
    rcases release_next h with ⟨rfl, -⟩ | ⟨-, before, o, after, -, -, hperform⟩
    · exact hs
    · exact perform_atMostThree (s := { s with held := before ++ after }) hs hperform
  case run k =>
    cases h
    exact runHost_atMostThree k hs
  case inject init done =>
    cases h
    obtain ⟨banks, hinject⟩ := inject_frame init done s
    rw [hinject]
    exact hs

end Moves

/-- Settles O56: an attempt by what fetch and parse give (`runAttempt_payload`, `runAttempt_failure`); every move keeps the
bound (`runMove_atMostThree`). -/
theorem runMakesAtMostThreeAttempts : Obligations.RunMakesAtMostThreeAttempts := by
  refine ⟨fun s t hs h => runMove_atMostThree (s := s.ready) hs h, fun s k h r hk hrun hphase =>
    ⟨fun hmade hlock => ?last, fun pay images env hless hanswers => ?payload,
      fun x e images env hless hanswers herror => ?failure⟩⟩
  case last => exact (runHost_nextAttempt hk hrun hphase).trans (runAttempt_last hk hmade hlock)
  case payload =>
    obtain ⟨himage, rfl, rfl⟩ := HostRun.Answers.eqs hanswers
    exact (runHost_nextAttempt hk hrun hphase).trans (runAttempt_payload hk hless himage)
  case failure =>
    obtain ⟨rfl, rfl, rfl⟩ := HostRun.Answers.eqs hanswers
    have hkind : imageError (r.nextImage s.env) = some e := by
      rcases herror with ⟨hx, rfl⟩ | ⟨hx, rfl⟩ | ⟨hx, rfl⟩ <;> rw [hx] <;> rfl
    rw [← hkind]
    refine (runHost_nextAttempt hk hrun hphase).trans (runAttempt_failure hk hless fun pay hpay => ?_)
    simp [hpay] at herror

end Sys2Proof
end

section
/-! PROOFS. Runs in step with their own responses: no move of any agent takes a run out of step (60_exceptions.md R145, R146;
log 32). -/

namespace Sys2Proof

open Machine

/-! ## Words that decode to one operation -/

/-- The words of a number see it modulo their size. -/
theorem wordsOfNat_mod (n x : Nat) : wordsOfNat n (x % 2 ^ (32 * n)) = wordsOfNat n x := by
  induction n generalizing x with
  | zero => rfl
  | succ n ih =>
    have hsize : 2 ^ (32 * (n + 1)) = 2 ^ 32 * 2 ^ (32 * n) := by rw [← Nat.pow_add]; congr 1; omega
    have hlow : BitVec.ofNat 32 (x % 2 ^ (32 * (n + 1))) = BitVec.ofNat 32 x := by
      apply BitVec.eq_of_toNat_eq
      rw [BitVec.toNat_ofNat, BitVec.toNat_ofNat, hsize, Nat.mod_mul_right_mod]
    have hhigh : x % 2 ^ (32 * (n + 1)) / 2 ^ 32 = x / 2 ^ 32 % 2 ^ (32 * n) := by
      rw [hsize, Nat.mod_mul_right_div_self]
    rw [wordsOfNat, wordsOfNat, hlow, hhigh, ih]

/-- The words of a CMD.CONFIG decode to one, whatever its bases. -/
theorem decode_config (aw : Nat) (pinw geow : Word) (cb db : Nat) (iwb dwb : Word) : ∃ cb' db',
    decodeStream aw (encode aw (.cmdConfig pinw geow cb db iwb dwb)).words [] =
      .op (.cmdConfig pinw geow cb' db' iwb dwb) [] [] := by
  have hdecode := decodeStream_hostOperation (aw := aw)
    (i := .cmdConfig pinw geow (cb % 2 ^ (32 * baseWords aw)) (db % 2 ^ (32 * baseWords aw)) iwb dwb) rfl
    (by simp [Instr.wf, Nat.mod_lt]) [] []
  simp only [encode, wordsOfNat_mod, List.append_nil] at hdecode
  exact ⟨_, _, hdecode⟩

/-- The word of a CMD.PROGRAM and its payload decode to it, whatever the payload's length. -/
theorem decode_program (aw : Nat) (v : Bool) (pay : List Byte) :
    decodeStream aw (encode aw (.cmdProgram v pay)).words [pay] = .op (.cmdProgram v pay) [] [] := by
  cases v <;> rfl

/-! ## A HOST with nothing under way -/

/-- The held operations of HOST `k`. -/
def Machine.State.heldBy (s : State) (k : Nat) : List Instr := (s.held.filter fun o => o.host == k).map HeldOp.instr

/-- HOST `k` has no word in its stream, no payload presented, no operation held and no response unread. -/
structure Machine.State.Idle (s : State) (k : Nat) (h : HostAgent) : Prop where
  stream : h.stream = []
  pays : h.pays = []
  inbox : h.inbox = []
  held : s.heldBy k = []

section InStep
variable {s t : State} {k : Nat} {h : HostAgent} {r : HostRun}

theorem underWay_eq (s : State) (k : Nat) (h : HostAgent) : s.underWay k h = h.inbox.map Response.op ++ s.heldBy k := rfl

/-- To be in step says of the state what is held and how wide its addresses are. -/
theorem Machine.State.InStep.congr (hin : s.InStep k h r) (hheld : t.heldBy k = s.heldBy k)
    (hparams : t.params = s.params) : t.InStep k h r := by
  unfold State.InStep at hin ⊢
  rwa [hparams, underWay_eq, hheld, ← underWay_eq]

namespace Machine.State.Idle

theorem congr (hidle : s.Idle k h) (hheld : t.heldBy k = s.heldBy k) : t.Idle k h :=
  ⟨hidle.stream, hidle.pays, hidle.inbox, hheld.trans hidle.held⟩

theorem underWay (hidle : s.Idle k h) : s.underWay k h = [] := by rw [underWay_eq, hidle.inbox, hidle.held]; rfl

/-- With nothing under way any run is in step. -/
theorem inStep (hidle : s.Idle k h) (r : HostRun) : s.InStep k (h.withRun r) r :=
  .inl ⟨hidle.stream, hidle.pays, .inl hidle.underWay⟩

/-- From there a run that issues the one operation it then waits for is in step. -/
theorem issue (hidle : s.Idle k h) {i i' : Instr}
    (hdecode : decodeStream s.params.addrWidth (encode s.params.addrWidth i).words (encode s.params.addrWidth i).pays =
      .op i' [] []) (hawaits : r.awaits i' = true) :
    s.InStep k ((h.issue s.params.addrWidth i).withRun r) r := by
  refine .inr ⟨hidle.underWay, i', ?_, hawaits⟩
  simpa [HostAgent.issue, HostAgent.withRun, hidle.stream, hidle.pays] using hdecode

end Machine.State.Idle

/-- Once its HOST has received the answer a run waits for, nothing else is under way. -/
theorem Machine.State.InStep.idle_of_answer (hin : s.InStep k h r) {v : Word} (hanswer : h.answer r = some v) :
    s.Idle k h.takeResponse := by
  obtain ⟨i, vs, hinbox, -⟩ := answer_some hanswer
  have hcons : s.underWay k h = i :: (vs.map Response.op ++ s.heldBy k) := by rw [underWay_eq, hinbox]; rfl
  rcases hin with ⟨hstream, hpays, hunder | ⟨i', hunder, -⟩⟩ | ⟨hunder, -⟩
  · cases hcons.symm.trans hunder
  · obtain ⟨-, hrest⟩ := List.cons.inj (hcons.symm.trans hunder)
    obtain ⟨hvs, hheld⟩ := List.append_eq_nil_iff.mp hrest
    refine ⟨hstream, hpays, ?_, hheld⟩
    rw [HostAgent.takeResponse, hinbox]
    exact List.map_eq_nil_iff.mp hvs
  · cases hcons.symm.trans hunder

/-- A run in step that waits for no response has nothing under way. -/
theorem Machine.State.InStep.idle (hin : s.InStep k h r) (hawaits : ∀ i, r.awaits i = false) : s.Idle k h := by
  rcases hin with ⟨hstream, hpays, hunder | ⟨i, -, hi⟩⟩ | ⟨-, i, -, hi⟩
  · rw [underWay_eq, List.append_eq_nil_iff, List.map_eq_nil_iff] at hunder
    exact ⟨hstream, hpays, hunder.1, hunder.2⟩
  · cases (hawaits i).symm.trans hi
  · cases (hawaits i).symm.trans hi

/-- A run in step whose HOST has a word in its stream has issued one operation, and waits for it. -/
theorem Machine.State.InStep.issued (hin : s.InStep k h r) {i : Instr} {ws : List Word} {ps : List (List Byte)}
    (hdecode : decodeStream s.params.addrWidth h.stream h.pays = .op i ws ps) :
    ws = [] ∧ ps = [] ∧ s.underWay k h = [] ∧ r.awaits i = true := by
  rcases hin with ⟨hstream, -⟩ | ⟨hunder, i', hissued, hawaits⟩
  · rw [hstream] at hdecode
    cases hdecode
  · cases hissued.symm.trans hdecode
    exact ⟨rfl, rfl, hunder, hawaits⟩

/-- A run in step has no illegal word in its HOST's stream. -/
theorem Machine.State.InStep.legal (hin : s.InStep k h r) {e : DecodeError} :
    decodeStream s.params.addrWidth h.stream h.pays ≠ .illegal e := by
  intro hdecode
  rcases hin with ⟨hstream, -⟩ | ⟨-, i, hissued, -⟩
  · rw [hstream] at hdecode
    cases hdecode
  · cases hissued.symm.trans hdecode

end InStep

/-! ## Runs in step, but for one operation on its way -/

/-- The session lock is the unfinished run's, and a run of the reset sentinel makes no attempt on an image. -/
def Machine.State.KeepsOrder (s : State) (k : Nat) (r : HostRun) : Prop :=
  (r.finished = false → s.runLock = some k) ∧ (isResetSentinel r.imageSource = true → r.phase ≠ .nextAttempt)

/-- The runs are in step but for operation `i` of HOST `j`, which has left its stream and is neither held nor answered. -/
def Machine.State.Pending (s : State) (j : Nat) (i : Instr) : Prop :=
  ∀ k h r, s.hosts[k]? = some h → h.run = some r → r.phase ≠ .waitLock →
    (k ≠ j → s.InStep k h r) ∧ (k = j → s.Idle k h ∧ r.awaits i = true) ∧ s.KeepsOrder k r

section Pending
variable {s t : State} {j : Nat} {i : Instr}

theorem Machine.State.RunsInStep.congr (hs : s.RunsInStep) (hhosts : t.hosts = s.hosts)
    (hheld : ∀ k, t.heldBy k = s.heldBy k) (hparams : t.params = s.params) (hlock : t.runLock = s.runLock) :
    t.RunsInStep := by
  intro k h r hk hrun hphase
  rw [hhosts] at hk
  obtain ⟨hin, horder, hsentinel⟩ := hs k h r hk hrun hphase
  exact ⟨hin.congr (hheld k) hparams, hlock.symm ▸ horder, hsentinel⟩

theorem Machine.State.Pending.congr (hs : s.Pending j i) (hhosts : t.hosts = s.hosts) (hheld : t.held = s.held)
    (hparams : t.params = s.params) (hlock : t.runLock = s.runLock) : t.Pending j i := by
  have hby (k : Nat) : t.heldBy k = s.heldBy k := by rw [State.heldBy, hheld, State.heldBy]
  intro k h r hk hrun hphase
  rw [hhosts] at hk
  obtain ⟨hother, hmine, horder, hsentinel⟩ := hs k h r hk hrun hphase
  exact ⟨fun hne => (hother hne).congr (hby k) hparams, fun heq => ⟨(hmine heq).1.congr (hby k), (hmine heq).2⟩,
    hlock.symm ▸ horder, hsentinel⟩

/-- An operation that arrives is on its way. -/
theorem pending_of_arrival (hs : s.RunsInStep) {a : HostAgent} (hj : s.hosts[j]? = some a) {ws : List Word}
    {ps : List (List Byte)} (hdecode : decodeStream s.params.addrWidth a.stream a.pays = .op i ws ps) :
    State.Pending { s with hosts := s.hosts.set j { a with stream := ws, pays := ps } } j i := by
  intro k h r hk hrun hphase
  by_cases hkj : k = j
  case neg =>
    rw [List.getElem?_set_ne (Ne.symm hkj)] at hk
    obtain ⟨hin, horder⟩ := hs k h r hk hrun hphase
    exact ⟨fun _ => hin.congr rfl rfl, fun heq => absurd heq hkj, horder⟩
  case pos =>
    subst hkj
    rw [List.getElem?_set_self (List.getElem?_eq_some_iff.mp hj).1] at hk
    cases hk
    obtain ⟨hin, horder⟩ := hs k a r hj hrun hphase
    obtain ⟨rfl, rfl, hunder, hawaits⟩ := hin.issued hdecode
    rw [underWay_eq, List.append_eq_nil_iff, List.map_eq_nil_iff] at hunder
    exact ⟨fun hne => absurd rfl hne, fun _ => ⟨⟨rfl, rfl, hunder.1, hunder.2⟩, hawaits⟩, horder⟩

/-- A held operation that is released is on its way. -/
theorem pending_of_release (hs : s.RunsInStep) {before after : List HeldOp} {o : HeldOp}
    (hheld : s.held = before ++ o :: after) :
    State.Pending { s with held := before ++ after } o.host o.instr := by
  intro k h r hk hrun hphase
  obtain ⟨hin, horder⟩ := hs k h r hk hrun hphase
  by_cases hko : o.host = k
  case neg =>
    refine ⟨fun _ => hin.congr ?_ rfl, fun heq => absurd heq.symm hko, horder⟩
    simp [State.heldBy, hheld, hko]
  case pos =>
    have hby : s.heldBy k =
        State.heldBy { s with held := before } k ++ o.instr :: State.heldBy { s with held := after } k := by
      simp [State.heldBy, hheld, hko]
    have hrest : State.heldBy { s with held := before ++ after } k =
        State.heldBy { s with held := before } k ++ State.heldBy { s with held := after } k := by
      simp [State.heldBy]
    refine ⟨fun hne => absurd hko.symm hne, fun _ => ?_, horder⟩
    rcases hin with ⟨hstream, hpays, hunder | ⟨i, hunder, hawaits⟩⟩ | ⟨hunder, -⟩
    · simp [underWay_eq, hby] at hunder
    · rw [underWay_eq, hby, ← List.append_assoc, List.append_eq_singleton_iff] at hunder
      simp only [List.append_eq_nil_iff, List.map_eq_nil_iff, List.cons.injEq, reduceCtorEq, and_false,
        or_false] at hunder
      obtain ⟨⟨hinbox, hbefore⟩, rfl, hafter⟩ := hunder
      exact ⟨⟨hstream, hpays, hinbox, by rw [hrest, hbefore, hafter]; rfl⟩, hawaits⟩
    · simp [underWay_eq, hby] at hunder

/-- An operation on its way that is held is in step again. -/
theorem runsInStep_of_held (hs : s.Pending j i) (patience : Nat) :
    State.RunsInStep { s with held := s.held ++ [⟨j, i, patience⟩] } := by
  intro k h r hk hrun hphase
  obtain ⟨hother, hmine, horder⟩ := hs k h r hk hrun hphase
  refine ⟨?_, horder⟩
  by_cases hkj : k = j
  case neg =>
    refine (hother hkj).congr ?_ rfl
    simp [State.heldBy, Ne.symm hkj]
  case pos =>
    subst hkj
    obtain ⟨hidle, hawaits⟩ := hmine rfl
    refine .inl ⟨hidle.stream, hidle.pays, .inr ⟨i, ?_, hawaits⟩⟩
    have hby : State.heldBy { s with held := s.held ++ [⟨k, i, patience⟩] } k = s.heldBy k ++ [i] := by
      simp [State.heldBy]
    rw [underWay_eq, hidle.inbox, hby, hidle.held]
    rfl

/-- An operation on its way that is performed is answered or refused, and the runs are in step again. -/
theorem runsInStep_of_perform (hs : s.Pending j i) (h : perform j i s = .next t) : t.RunsInStep := by
  obtain ⟨u, hu, rfl⟩ := perform_next h
  obtain ⟨hhosts, hheld, hparams, hlock, -⟩ := exec_agents hu
  have hu := hs.congr hhosts hheld hparams hlock
  intro k h r hk hrun hphase
  rw [deliver_host] at hk
  rw [deliver_eq]
  split at hk
  case isFalse hkj =>
    obtain ⟨hother, -, horder⟩ := hu k h r hk hrun hphase
    exact ⟨(hother hkj).congr rfl rfl, horder⟩
  case isTrue hkj =>
    obtain ⟨a, ha, rfl⟩ := Option.map_eq_some_iff.mp hk
    cases hresp : u.resp
    case none =>
      rw [hresp] at hrun
      obtain ⟨-, hmine, horder⟩ := hu k a r ha hrun hphase
      obtain ⟨hidle, -⟩ := hmine hkj
      exact ⟨.inl ⟨hidle.stream, hidle.pays, .inl hidle.underWay⟩, horder⟩
    case some v =>
      rw [hresp] at hrun
      obtain ⟨-, hmine, horder⟩ := hu k a r ha hrun hphase
      obtain ⟨hidle, hawaits⟩ := hmine hkj
      refine ⟨.inl ⟨hidle.stream, hidle.pays, .inr ⟨i, ?_, hawaits⟩⟩, horder⟩
      have hinbox : a.inbox ++ [⟨i, v⟩] = [⟨i, v⟩] := by rw [hidle.inbox]; rfl
      exact congrArg₂ (fun xs held => List.map Response.op xs ++ held) hinbox hidle.held

end Pending

/-! ## The rows of a run -/

section Row
variable {s : State} {k : Nat} {h h' : HostAgent} {r : HostRun} {lock : Option Nat}

/-- A row of HOST `k` leaves the session lock of another HOST's run. -/
theorem Machine.RunRow.keepsLock (row : RunRow s k h r h' lock) {j : Nat} (hne : j ≠ k) (hlock : s.runLock = some j) :
    lock = some j := by
  cases row
  case begins hnone _ => cases hnone.symm.trans hlock
  case exhausted | succeeds => rw [if_neg (by simpa [hlock] using hne), hlock]
  all_goals exact hlock

/-- A HOST whose earlier words are settled has nothing under way once it has forgotten what they left. -/
theorem idle_of_settled (hsettled : s.settled k h = true) : s.Idle k h.forget := by
  obtain ⟨hstream, hheld⟩ := settled_iff.mp hsettled
  refine ⟨hstream, rfl, rfl, ?_⟩
  simpa [State.heldBy] using hheld

/-- A row that begins or continues a run leaves it in step, with the lock held while it is not finished. -/
theorem Machine.RunRow.inStep (row : RunRow s k h r h' lock) (hrun : h.run = some r)
    (hs : r.phase ≠ .waitLock → s.InStep k h r ∧ s.KeepsOrder k r) {r' : HostRun} (hrun' : h'.run = some r')
    (hphase' : r'.phase ≠ .waitLock) :
    s.InStep k h' r' ∧ (r'.finished = false → lock = some k) ∧
      (isResetSentinel r'.imageSource = true → r'.phase ≠ .nextAttempt) := by
  cases row
  case waits =>
    cases hrun.symm.trans hrun'
    exact hs hphase'
  case begins hphase hlock hsettled =>
    cases hrun'
    obtain ⟨cb, db, hdecode⟩ := decode_config s.params.addrWidth (resolveBoard s.params r.boardId).pinw
      (resolveBoard s.params r.boardId).geow (resolveBoard s.params r.boardId).ctrlBase
      (resolveBoard s.params r.boardId).dataBase r.iwb r.dwb
    exact ⟨(idle_of_settled hsettled).issue hdecode rfl, fun _ => rfl, nofun⟩
  all_goals
    cases hrun'
    have hbegun : r.phase ≠ .waitLock := by simp [*]
    obtain ⟨hin, horder, hsentinel⟩ := hs hbegun
    have hfinished : r.finished = false := by simp [HostRun.finished, *]
    have hlock := horder hfinished
  case resets hphase v hanswer hreset =>
    exact ⟨(hin.idle_of_answer hanswer).issue rfl hreset, fun _ => hlock, nofun⟩
  case configured hphase v hanswer hreset =>
    exact ⟨(hin.idle_of_answer hanswer).inStep _, fun _ => hlock, fun h => absurd (h.symm.trans hreset) nofun⟩
  case exhausted hphase => exact ⟨(hin.idle (by simp [HostRun.awaits, hphase])).inStep _, nofun, nofun⟩
  case programs hphase hless pay =>
    have hreset : isResetSentinel r.imageSource = false := by
      by_contra h
      exact hsentinel (by simpa using h) hphase
    exact ⟨(hin.idle (by simp [HostRun.awaits, hphase])).issue (decode_program _ _ _) (by simp [HostRun.awaits, hreset]),
      fun _ => hlock, nofun⟩
  case imageFails hphase hless e =>
    exact ⟨(hin.idle (by simp [HostRun.awaits, hphase])).inStep _, fun _ => hlock, hsentinel⟩
  case started hphase v hanswer => exact ⟨(hin.idle_of_answer hanswer).issue rfl rfl, fun _ => hlock, nofun⟩
  case polls hphase v hanswer =>
    exact ⟨(hin.idle_of_answer hanswer).issue (i' := .cmdStatus) rfl (by simp [HostRun.awaits, hphase]), fun _ => hlock,
      hsentinel⟩
  case succeeds hphase v hanswer => exact ⟨(hin.idle_of_answer hanswer).inStep _, nofun, nofun⟩
  case attemptFails hphase v hanswer hreset e =>
    exact ⟨(hin.idle_of_answer hanswer).inStep _, fun _ => hlock, fun h => absurd (h.symm.trans hreset) nofun⟩

end Row

/-! ## Every move -/

section Moves
variable {k : Nat} {s t : State} (hs : s.RunsInStep)
include hs

theorem runHost_runsInStep : (s.runHost k).RunsInStep := by
  by_cases hsome : ∃ h r, s.hosts[k]? = some h ∧ h.run = some r
  case neg => rwa [runHost_of_none fun h r hk hrun => hsome ⟨h, r, hk, hrun⟩]
  case pos =>
    obtain ⟨a, q, hk, hrun⟩ := hsome
    obtain ⟨fresh, a', lock, heq, row⟩ := runHost_row hk hrun
    rw [heq]
    intro j h r hj hr hphase
    by_cases hjk : j = k
    case pos =>
      subst hjk
      rw [afterRun_hosts, List.getElem?_set_self (List.getElem?_eq_some_iff.mp hk).1] at hj
      cases hj
      obtain ⟨hin, horder⟩ := row.inStep hrun (hs j a q hk hrun) hr hphase
      exact ⟨hin.congr rfl rfl, horder⟩
    case neg =>
      rw [afterRun_hosts, List.getElem?_set_ne (Ne.symm hjk)] at hj
      obtain ⟨hin, horder, hsentinel⟩ := hs j h r hj hr hphase
      exact ⟨hin.congr rfl rfl, fun hf => row.keepsLock hjk (horder hf), hsentinel⟩

theorem arrive_runsInStep (h : arrive k s = .next t) : t.RunsInStep := by
  cases hk : s.hosts[k]?
  case none =>
    rw [arrive, hk] at h
    cases h
    exact hs
  case some a =>
    cases hdecode : decodeStream s.params.addrWidth a.stream a.pays
    case incomplete =>
      cases (arrive_incomplete hk hdecode).symm.trans h
      exact hs
    case illegal e =>
      cases (arrive_illegal hk hdecode).symm.trans h
      intro j b r hj hr hphase
      by_cases hjk : j = k
      case pos =>
        subst hjk
        rw [State.refuse_hosts, List.getElem?_set_self (List.getElem?_eq_some_iff.mp hk).1] at hj
        cases hj
        exact absurd hdecode (hs j a r hk hr hphase).1.legal
      case neg =>
        rw [State.refuse_hosts, List.getElem?_set_ne (Ne.symm hjk)] at hj
        obtain ⟨hin, horder⟩ := hs j b r hj hr hphase
        exact ⟨hin.congr rfl rfl, horder⟩
    case op i ws ps =>
      have hpending := pending_of_arrival hs hk hdecode
      rw [arrive_op hk hdecode] at h
      rcases accept_next h with ⟨-, -, rfl⟩ | ⟨-, hperform⟩
      · exact runsInStep_of_held hpending _
      · exact runsInStep_of_perform hpending hperform

theorem runMove_runsInStep {m : Move} (h : runMove m s = .next t) : t.RunsInStep := by
  cases m
  case host k => exact arrive_runsInStep hs h
  case seq =>
    change seqStep s = _ at h
    unfold seqStep at h
    split at h
    · obtain ⟨hhosts, hheld, hparams, hlock, -⟩ := exec_agents h
      exact hs.congr hhosts (fun k => by rw [State.heldBy, hheld, State.heldBy]) hparams hlock
    · cases h
      exact hs
  case release k =>
    rcases release_next h with ⟨rfl, -⟩ | ⟨-, before, o, after, hsplit, -, hperform⟩
    · exact hs
    · exact runsInStep_of_perform (pending_of_release hs hsplit) hperform
  case run k =>
    cases h
    exact runHost_runsInStep hs
  case inject init done =>
    cases h
    obtain ⟨banks, hinject⟩ := inject_frame init done s
    rw [hinject]
    exact hs.congr rfl (fun _ => rfl) rfl rfl

/-- Waiting changes how long a held operation may be passed over, and nothing a run sees. -/
theorem ready_runsInStep : s.ready.RunsInStep := by
  refine hs.congr rfl (fun k => ?_) rfl rfl
  unfold State.ready State.heldBy
  cases hbusy : s.busy
  case true => simp [waiting_of_busy hbusy]
  case false =>
    simp [waiting_of_not_busy hbusy, List.filter_map, Function.comp_def, HeldOp.passed]

/-- In step, the HOST of a run that awaits a status word has received nothing, or that word alone. -/
theorem inbox_of_awaitStatus {h : HostAgent} {r : HostRun} (hk : s.hosts[k]? = some h) (hrun : h.run = some r)
    (hphase : r.phase = .awaitStatus) : h.inbox = [] ∨ ∃ v, h.inbox = [⟨.cmdStatus, v⟩] := by
  have hstatus {i : Instr} (hi : r.awaits i = true) : i = .cmdStatus := by
    cases i <;> simp [HostRun.awaits, hphase] at hi ⊢
  obtain ⟨hin, -⟩ := hs k h r hk hrun (by simp [hphase])
  cases hinbox : h.inbox
  case nil => exact .inl rfl
  case cons x xs =>
    right
    have hcons : s.underWay k h = x.op :: (xs.map Response.op ++ s.heldBy k) := by rw [underWay_eq, hinbox]; rfl
    rcases hin with ⟨-, -, hunder | ⟨i, hunder, hawaits⟩⟩ | ⟨hunder, -⟩
    · cases hcons.symm.trans hunder
    · obtain ⟨hop, hrest⟩ := List.cons.inj (hcons.symm.trans hunder)
      obtain ⟨hxs, -⟩ := List.append_eq_nil_iff.mp hrest
      rw [List.map_eq_nil_iff.mp hxs]
      exact ⟨x.word, by rw [← hstatus hawaits, ← hop]⟩
    · cases hcons.symm.trans hunder

end Moves

/-- A run whose HOST has received nothing waits for its status word. -/
theorem runHost_awaits {s : State} {k : Nat} {h : HostAgent} {r : HostRun} (hk : s.hosts[k]? = some h)
    (hrun : h.run = some r) (hphase : r.phase = .awaitStatus) (hinbox : h.inbox = []) : s.runHost k = s := by
  have hanswer : h.answer r = none := by rw [HostAgent.answer, hinbox]
  simp only [State.runHost, hk, hrun, hphase, hanswer]

/-- Settles O57: the three actions on a status word, and that every move keeps the runs in step (`runMove_runsInStep`). -/
theorem runActsOnTheStatusWord : Obligations.RunActsOnTheStatusWord := by
  refine ⟨fun s k h r v vs hk hrun hphase hinbox hlock => ?actions, fun d hd k h r hk hrun hphase => ?powerOn,
    fun s t hs h => runMove_runsInStep (ready_runsInStep hs) h, fun s k h r hs hk hrun hphase => ?waiting⟩
  case actions =>
    have htaken : h.takeResponse = { h with inbox := vs } := by rw [HostAgent.takeResponse, hinbox]; rfl
    have hmove := runHost_awaitStatus hk hrun hphase hinbox
    rw [htaken] at hmove
    refine ⟨fun hbusy => hmove.trans (runStatus_busy hk hbusy _),
      fun hbusy hdone => hmove.trans (runStatus_success hk hbusy hdone hlock _), fun e hbusy hreset hfailed herror => ?_⟩
    have hkind : statusError v = some e := by
      rcases herror with ⟨hx, rfl⟩ | ⟨hx, rfl⟩ | ⟨hx, rfl⟩ <;> rw [statusError, hx] <;> rfl
    rw [← hkind]
    exact hmove.trans (runStatus_failed hk hbusy hreset hfailed _)
  case powerOn => exact absurd (hd h (List.mem_of_getElem? hk) r hrun) hphase
  case waiting =>
    refine (inbox_of_awaitStatus hs hk hrun hphase).imp_left fun hinbox => ⟨hinbox, ?_⟩
    exact runHost_awaits hk hrun hphase hinbox

end Sys2Proof
end

section
/-! PROOFS. The release of held operations: one at a time, any of them, and none held for ever (43_host_commands.md R117;
log 6, log 16, log 34). -/

namespace Sys2Proof

open Machine

/-! ## One release -/

/-- A release while not busy performs the operation its index names, modulo their number. -/
theorem release_eq {s : State} {k : Nat} {before after : List HeldOp} {o : HeldOp} (hbusy : s.busy = false)
    (hheld : s.held = before ++ o :: after) (hk : k % s.held.length = before.length) :
    release k s = perform o.host o.instr { s with held := before ++ after } := by
  have hget : s.held[k % s.held.length]? = some o := by rw [hk, hheld]; simp
  have herase : s.held.eraseIdx (k % s.held.length) = before ++ after := by
    rw [hk, hheld, List.eraseIdx_append_of_length_le le_rfl]
    simp
  simp only [release, hbusy, hget, herase, Bool.false_eq_true, if_false]

section Step
variable {s : State} (hsel : (decodeSelector s.selector).isSome = true)
include hsel

/-- The step of a release while not busy: the others have waited once more. -/
theorem step_release {k : Nat} (hmove : s.nextMove = .release k) (hbusy : s.busy = false) {before after : List HeldOp}
    {o : HeldOp} (hheld : s.held = before ++ o :: after) (hk : k % s.held.length = before.length) :
    step s = perform o.host o.instr { s with held := (before ++ after).map HeldOp.passed, env := s.envAfter } := by
  have hwaiting : s.waiting = before.map HeldOp.passed ++ o.passed :: after.map HeldOp.passed := by
    rw [waiting_of_not_busy hbusy, hheld, List.map_append, List.map_cons]
  have hindex : k % s.waiting.length = (before.map HeldOp.passed).length := by rw [waiting_length, hk, List.length_map]
  rw [step_eq hmove, ready_of_isSome hsel, List.map_append]
  exact release_eq (s := { s with env := s.envAfter, held := s.waiting }) (o := o.passed) hbusy hwaiting hindex

theorem step_release_busy {k : Nat} (hmove : s.nextMove = .release k) (hbusy : s.busy = true) :
    step s = .next { s with env := s.envAfter } := by
  rw [step_eq hmove, ready_of_isSome hsel, waiting_of_busy hbusy]
  exact if_pos hbusy

end Step

/-- A place in a list that is not empty, and the operation there. -/
theorem held_split {l : List HeldOp} {j : Nat} (hj : j < l.length) :
    ∃ before o after, l = before ++ o :: after ∧ before.length = j := by
  obtain ⟨before, after, hsplit, -, hlength⟩ := eraseIdx_split (List.getElem?_eq_getElem hj)
  exact ⟨before, _, after, hsplit, hlength⟩

/-! ## What a step accepts -/

theorem accepts_of_release {s : State} {k : Nat} (hmove : s.nextMove = .release k) (hbusy : s.busy = false)
    (hheld : s.held ≠ []) : s.accepts = some (k % s.held.length) := by
  simp [State.accepts, hmove, hbusy, hheld]

theorem accepts_none {s : State} (h : (∀ k, s.nextMove ≠ .release k) ∨ s.busy = true) : s.accepts = none := by
  unfold State.accepts
  split
  · next k hmove => simp [h.resolve_left fun hne => hne k hmove]
  all_goals rfl

/-- The place of the `j`-th held operation after a step that does not accept it: one accepted before it moves it up. -/
def Machine.State.placeAfter (s : State) (j : Nat) : Nat := if s.accepts.any (· < j) then j - 1 else j

/-! ## What a move leaves of the held operations and of the schedule -/

section Moves
variable {m : Move} {s t : State}

/-- An operation performed changes neither the held operations nor what is fixed of the schedule. -/
theorem perform_agents {k : Nat} {i : Instr} (h : perform k i s = .next t) :
    t.held = s.held ∧ t.env.sched = s.env.sched ∧ t.env.slack = s.env.slack := by
  obtain ⟨u, hu, rfl⟩ := perform_next h
  obtain ⟨-, hheld, -, -, -, hsched, hslack⟩ := exec_agents hu
  rw [deliver_eq]
  exact ⟨hheld, hsched, hslack⟩

theorem seqStep_agents (h : seqStep s = .next t) :
    t.held = s.held ∧ t.env.sched = s.env.sched ∧ t.env.slack = s.env.slack := by
  unfold seqStep at h
  split at h
  · obtain ⟨-, hheld, -, -, -, hsched, hslack⟩ := exec_agents h
    exact ⟨hheld, hsched, hslack⟩
  · cases h
    exact ⟨rfl, rfl, rfl⟩

/-- A move of a run draws from the environment, and changes the HOSTs and the session lock. -/
theorem runHost_afterRun (k : Nat) (s : State) : ∃ fresh hosts lock,
    s.runHost k = { s with env := { s.env with fresh := fresh }, hosts := hosts, runLock := lock } := by
  by_cases hsome : ∃ h r, s.hosts[k]? = some h ∧ h.run = some r
  case neg =>
    exact ⟨s.env.fresh, s.hosts, s.runLock, runHost_of_none fun h r hk hrun => hsome ⟨h, r, hk, hrun⟩⟩
  case pos =>
    obtain ⟨h, r, hk, hrun⟩ := hsome
    obtain ⟨fresh, h', lock, heq, -⟩ := runHost_row hk hrun
    exact ⟨fresh, _, lock, heq⟩

/-- No move touches the rest of the schedule or the slack. -/
theorem runMove_env (h : runMove m s = .next t) : t.env.sched = s.env.sched ∧ t.env.slack = s.env.slack := by
  cases m
  case host k =>
    rcases arrive_next h with rfl | ⟨hosts, rfl⟩ | ⟨i, hosts, -, haccept⟩
    · exact ⟨rfl, rfl⟩
    · exact ⟨rfl, rfl⟩
    · rcases accept_next haccept with ⟨-, -, rfl⟩ | ⟨-, hperform⟩
      · exact ⟨rfl, rfl⟩
      · exact (perform_agents hperform).2
  case seq => exact (seqStep_agents h).2
  case release k =>
    rcases release_next h with ⟨rfl, -⟩ | ⟨-, before, o, after, -, -, hperform⟩
    · exact ⟨rfl, rfl⟩
    · exact (perform_agents hperform).2
  case run k =>
    cases h
    obtain ⟨fresh, hosts, lock, hrun⟩ := runHost_afterRun k s
    rw [hrun]
    exact ⟨rfl, rfl⟩
  case inject init done =>
    cases h
    obtain ⟨banks, hinject⟩ := inject_frame init done s
    rw [hinject]
    exact ⟨rfl, rfl⟩

/-- Apart from a release while not busy, a move leaves the held operations in their places. -/
theorem runMove_held (hm : (∀ k, m ≠ .release k) ∨ s.busy = true) (h : runMove m s = .next t) :
    ∃ later, t.held = s.held ++ later := by
  have hsame (hheld : t.held = s.held) : ∃ later, t.held = s.held ++ later := ⟨[], by rw [hheld, List.append_nil]⟩
  cases m
  case host k =>
    rcases arrive_next h with rfl | ⟨hosts, rfl⟩ | ⟨i, hosts, -, haccept⟩
    · exact hsame rfl
    · exact hsame rfl
    · rcases accept_next haccept with ⟨-, -, rfl⟩ | ⟨-, hperform⟩
      · exact ⟨_, rfl⟩
      · exact hsame (perform_agents hperform).1
  case seq => exact hsame (seqStep_agents h).1
  case release k =>
    rcases release_next h with ⟨rfl, -⟩ | ⟨hidle, -⟩
    · exact hsame rfl
    · rcases hm with hm | hbusy
      · exact absurd rfl (hm k)
      · cases hidle.symm.trans hbusy
  case run k =>
    cases h
    obtain ⟨env, hosts, lock, hrun⟩ := runHost_frame k s
    exact hsame (by rw [hrun])
  case inject init done =>
    cases h
    obtain ⟨banks, hinject⟩ := inject_frame init done s
    exact hsame (by rw [hinject])

/-- While busy, only the sequencer moves the attempt on. -/
theorem runMove_stepsLeft (hbusy : s.busy = true) (hm : m ≠ .seq) (h : runMove m s = .next t) :
    t.stepsLeft = s.stepsLeft := by
  cases m
  case seq => exact absurd rfl hm
  case host k =>
    rcases arrive_next h with rfl | ⟨hosts, rfl⟩ | ⟨i, hosts, -, haccept⟩
    · rfl
    · rfl
    · rcases accept_next haccept with ⟨-, -, rfl⟩ | ⟨hidle | rfl, hperform⟩
      · rfl
      · cases hidle.symm.trans hbusy
      · obtain ⟨u, hu, rfl⟩ := perform_next hperform
        cases hu
        rw [deliver_eq]
        rfl
  case release k =>
    rcases release_next h with ⟨rfl, -⟩ | ⟨hidle, -⟩
    · rfl
    · cases hidle.symm.trans hbusy
  case run k =>
    cases h
    obtain ⟨env, hosts, lock, hrun⟩ := runHost_frame k s
    rw [hrun]
    rfl
  case inject init done =>
    cases h
    obtain ⟨banks, hinject⟩ := inject_frame init done s
    rw [hinject]
    rfl

end Moves

/-! ## How long a held operation waits -/

/-- How often the `j`-th held operation may still be passed over. -/
def Machine.State.patienceAt (s : State) (j : Nat) : Nat := (s.held[j]?.map HeldOp.patience).getD 0

/-- What bounds the wait of the `j`-th held operation: the moves a script fixes, the operations before it, how often it may
be passed over, the steps of the attempt under way, and the moves of other agents before the sequencer's next step. -/
def Machine.State.delay (s : State) (j : Nat) : Nat ×ₗ Nat ×ₗ Nat ×ₗ Nat ×ₗ Nat :=
  toLex (s.env.sched.length, toLex (j, toLex (s.patienceAt j, toLex (s.stepsLeft, s.env.slack))))

theorem delay_lt_iff {s t : State} {i j : Nat} : t.delay i < s.delay j ↔
    t.env.sched.length < s.env.sched.length ∨ t.env.sched.length = s.env.sched.length ∧
      (i < j ∨ i = j ∧ (t.patienceAt i < s.patienceAt j ∨ t.patienceAt i = s.patienceAt j ∧
        (t.stepsLeft < s.stepsLeft ∨ t.stepsLeft = s.stepsLeft ∧ t.env.slack < s.env.slack))) := by
  simp only [State.delay, Prod.Lex.toLex_lt_toLex]

/-- What stands at another place of a list, once an element has been taken out. -/
theorem getElem?_without {α : Type} (before : List α) (x : α) (after : List α) {j : Nat} (hj : before.length ≠ j) :
    (before ++ after)[if before.length < j then j - 1 else j]? = (before ++ x :: after)[j]? := by
  split
  · next hlt =>
    obtain ⟨i, rfl⟩ := Nat.exists_eq_add_of_lt hlt
    rw [List.getElem?_append_right (by omega), List.getElem?_append_right (by omega),
      show before.length + i + 1 - before.length = i + 1 by omega, List.getElem?_cons_succ,
      show before.length + i + 1 - 1 - before.length = i by omega]
  · rw [List.getElem?_append_left (by omega), List.getElem?_append_left (by omega)]

/-- An operation that may not be passed over any more makes the first such one overdue. -/
theorem overdue_le {s : State} {j : Nat} (hj : j < s.held.length) (hpatience : s.patienceAt j = 0) :
    ∃ i, s.overdue = some i ∧ i ≤ j := by
  have hget : s.held[j].patience = 0 := by simpa [State.patienceAt, hj] using hpatience
  cases hover : s.overdue with
  | none =>
    have hnone := List.findIdx?_eq_none_iff.mp hover _ (List.getElem_mem hj)
    simp [hget] at hnone
  | some i =>
    refine ⟨i, rfl, ?_⟩
    obtain ⟨hi, -, hfirst⟩ := List.findIdx?_eq_some_iff_getElem.mp hover
    by_contra hlt
    exact hfirst j (by omega) (by simp [hget])

/-- The place moves up, or stays. -/
theorem placeAfter_cases (s : State) (j : Nat) : s.placeAfter j < j ∨ s.placeAfter j = j := by
  unfold State.placeAfter
  split
  · next hany =>
    obtain ⟨i, -, hlt⟩ := (Option.any_eq_true _ _).mp hany
    simp only [decide_eq_true_eq] at hlt
    omega
  · exact .inr rfl

section Wait
variable {s t : State} {j : Nat} (hi : s.Inv) (h : step s = .next t) (hj : j < s.held.length) (hacc : s.accepts ≠ some j)
include hi h hj hacc

/-- A step keeps each held operation it does not accept, having waited once more. -/
theorem step_held : t.held[s.placeAfter j]? = s.waiting[j]? := by
  have hne : s.held ≠ [] := List.ne_nil_of_length_pos (Nat.zero_lt_of_lt hj)
  have hkeep (hm : (∀ k, s.nextMove ≠ .release k) ∨ s.busy = true) : t.held[s.placeAfter j]? = s.waiting[j]? := by
    obtain ⟨later, hlater⟩ := runMove_held (s := s.ready) hm h
    have hplace : s.placeAfter j = j := by rw [State.placeAfter, accepts_none hm]; rfl
    rw [hplace, hlater]
    exact List.getElem?_append_left (by rw [State.ready_held]; simpa using hj)
  by_cases hm : ∃ k, s.nextMove = .release k
  case neg => exact hkeep (.inl fun k hk => hm ⟨k, hk⟩)
  case pos =>
    obtain ⟨k, hmove⟩ := hm
    cases hbusy : s.busy
    case true => exact hkeep (.inr hbusy)
    case false =>
      obtain ⟨before, o, after, hsplit, hlength⟩ :=
        held_split (Nat.mod_lt k (List.length_pos_of_ne_nil hne))
      have haccepts := accepts_of_release hmove hbusy hne
      rw [step_release hi.selector hmove hbusy hsplit hlength.symm] at h
      rw [haccepts, ← hlength] at hacc
      rw [(perform_agents h).1, State.placeAfter, haccepts, waiting_of_not_busy hbusy, ← hlength, hsplit,
        List.getElem?_map, List.getElem?_map, Option.any_some]
      simp only [decide_eq_true_eq]
      rw [getElem?_without before o after fun heq => hacc (congrArg some heq)]

/-- While not busy and with no script, an operation that keeps its place may be passed over once less. -/
theorem step_patience_idle (hsched : s.env.sched = []) (hbusy : s.busy = false) (hplace : s.placeAfter j = j) :
    t.patienceAt j < s.patienceAt j := by
  have hheld := step_held hi h hj hacc
  rw [hplace, waiting_of_not_busy hbusy, List.getElem?_map] at hheld
  have hpositive : s.patienceAt j ≠ 0 := by
    intro hzero
    obtain ⟨i, hover, hle⟩ := overdue_le hj hzero
    have haccepts := accepts_of_release (nextMove_of_overdue hsched hbusy hover) hbusy
      (List.ne_nil_of_length_pos (Nat.zero_lt_of_lt hj))
    rw [Nat.mod_eq_of_lt (by omega)] at haccepts
    have hlt : i < j := lt_of_le_of_ne hle fun heq => hacc (heq ▸ haccepts)
    rw [State.placeAfter, haccepts, Option.any_some, if_pos (by simpa using hlt)] at hplace
    omega
  unfold State.patienceAt at hpositive ⊢
  rw [hheld]
  rw [List.getElem?_eq_getElem hj] at hpositive ⊢
  exact Nat.sub_one_lt hpositive

omit hj hacc in
/-- While busy a held operation waits for the sequencer, whose attempt ends (42_sequencer.md R115). -/
theorem step_attempt (hsched : s.env.sched = []) (hbusy : s.busy = true) :
    t.stepsLeft < s.stepsLeft ∨ t.stepsLeft = s.stepsLeft ∧ t.env.slack < s.env.slack := by
  by_cases hmove : s.nextMove = .seq
  case pos =>
    rw [step_eq hmove] at h
    have hrow : Row s.ready t := seqStep_row (s := s.ready) hi.ready.selector hbusy h
    exact .inl (row_stepsLeft (s := s.ready) hi.ready hrow)
  case neg =>
    have hslack : s.env.slack ≠ 0 := fun hzero => hmove (nextMove_of_no_slack hsched hbusy hzero)
    refine .inr ⟨runMove_stepsLeft (s := s.ready) hbusy hmove h, ?_⟩
    rw [(runMove_env h).2, State.ready_env, State.envAfter]
    simp only [hbusy, hmove, decide_false, Bool.not_false, Bool.and_self, if_true]
    exact Nat.sub_one_lt hslack

theorem step_delay : t.delay (s.placeAfter j) < s.delay j := by
  rw [delay_lt_iff]
  have hsched : t.env.sched = s.env.sched.tail := (runMove_env h).1
  cases hscript : s.env.sched with
  | cons m ms => exact .inl (by rw [hsched, hscript]; exact Nat.lt_succ_self _)
  | nil =>
    refine .inr ⟨by rw [hsched, hscript]; rfl, ?_⟩
    refine (placeAfter_cases s j).imp_right fun hplace => ⟨hplace, ?_⟩
    rw [hplace]
    cases hbusy : s.busy
    case false => exact .inl (step_patience_idle hi h hj hacc hscript hbusy hplace)
    case true =>
      have hheld := step_held hi h hj hacc
      rw [hplace, waiting_of_busy hbusy] at hheld
      exact .inr ⟨by rw [State.patienceAt, hheld, State.patienceAt], step_attempt hi h hscript hbusy⟩

end Wait

/-- Each held operation is accepted, or the machine stops before: its delay decreases. -/
theorem exists_acceptedWithin (s : State) (j : Nat) (hi : s.Inv) (hj : j < s.held.length) :
    ∃ n, AcceptedWithin n s j := by
  by_cases hacc : s.accepts = some j
  case pos => exact ⟨1, .inl hacc⟩
  case neg =>
    cases h : step s with
    | fault f => exact ⟨1, .inr (by rw [h]; trivial)⟩
    | refused r => exact ⟨1, .inr (by rw [h]; trivial)⟩
    | next t =>
      have hplace : s.placeAfter j < t.held.length := by
        have hheld := step_held hi h hj hacc
        rw [List.getElem?_eq_getElem (l := s.waiting) (i := j) (by simpa using hj)] at hheld
        exact (List.getElem?_eq_some_iff.mp hheld).1
      have hdelay := step_delay hi h hj hacc
      obtain ⟨n, hn⟩ := exists_acceptedWithin t (s.placeAfter j) (everyStepKeepsTheInvariant s t hi h) hplace
      exact ⟨n + 1, .inr (by rw [h]; exact hn)⟩
termination_by s.delay j
decreasing_by exact hdelay

/-- Settles O47: one release (`step_release`), of any place, and the delay of each held operation
(`exists_acceptedWithin`). -/
theorem oneHeldOperationIsReleased : Obligations.OneHeldOperationIsReleased := by
  refine ⟨fun s k hmove hsel => ⟨step_release_busy hsel hmove, fun hbusy hne => ?one⟩,
    fun s before after o ms hbusy hsel hheld hsched => ?any, exists_acceptedWithin⟩
  case one =>
    obtain ⟨before, o, after, hsplit, hlength⟩ := held_split (Nat.mod_lt k (List.length_pos_of_ne_nil hne))
    refine ⟨before, after, o, hsplit, ?_, step_release hsel hmove hbusy hsplit hlength.symm⟩
    rw [accepts_of_release hmove hbusy hne, hlength]
  case any =>
    refine ⟨step_release hsel (nextMove_of_sched hsched) hbusy hheld (Nat.mod_eq_of_lt (by simp [hheld])), ?_⟩
    rw [State.envAfter, hsched]
    rfl

end Sys2Proof
end
